-- ==== Sys2Proof/Word.lean ====
section
/-! DEFINITION. The two widths of the block (spec/00_scope.md R10): `u8` and `u16`, both unsigned. -/

namespace Sys2Proof

/-- `u8` (R10). -/
abbrev Byte := BitVec 8

/-- `u16` (R10). -/
abbrev Word := BitVec 16

end Sys2Proof
end

