-- ==== Sys2Proof/Config.lean ====
section
/-! DEFINITION. The parameters of rule R8 (spec/00_scope.md), the host parameter `BOOT_RETRIES` (D36), the
constants that are not tunable, and the model's free values. Illegal parameter values are unrepresentable, as
spec/93_implementation_defined.md U9 asks. -/

namespace Sys2Proof

/-- The address width `AW`, the one difference between module revisions that the block sees (R8, R9). -/
inductive AddrWidth where
  | bits10
  | bits11
  deriving DecidableEq, Repr

/-- `AW` as a number. -/
def AddrWidth.bits : AddrWidth → Nat
  | .bits10 => 10
  | .bits11 => 11

/-- `ADDR_MAX = 2^AW - 1` (R8, R60): 1023 or 2047. -/
def AddrWidth.addrMax (aw : AddrWidth) : Nat := 2 ^ aw.bits - 1

/-- The parameters of one piece of hardware (R8) and of its host (D36). They never change (R48 (a)): no step
writes the field of State that holds them (log 1). -/
structure Config where
  /-- `AW`. -/
  aw : AddrWidth
  /-- `MAX_PAYLOAD`: a payload of `n` bytes is accepted by `ENCODE` only if `n < MAX_PAYLOAD`. -/
  maxPayload : Nat
  maxPayload_pos : 1 ≤ maxPayload
  maxPayload_le : maxPayload ≤ 65531
  /-- `IB_WINDOW`, in ticks. -/
  ibWindow : Word
  ibWindow_pos : 1 ≤ ibWindow.toNat
  /-- `DEADLINE_DEFAULT`, in ticks. -/
  deadlineDefault : Word
  deadlineDefault_pos : 1 ≤ deadlineDefault.toNat
  /-- `RXCAP`, in bytes. -/
  rxCap : Nat
  rxCap_ge : 5 ≤ rxCap
  rxCap_le : rxCap ≤ 65535
  /-- `TICK_PERIOD`, in a unit of time the spec does not name; no rule uses it (R8, U4). -/
  tickPeriod : Nat
  tickPeriod_pos : 1 ≤ tickPeriod
  /-- `BOOT_RETRIES`, a positive number, or `none` for unbounded (D36). -/
  bootRetries : Option Nat
  bootRetries_pos : 1 ≤ bootRetries.getD 1
  deriving DecidableEq, Repr

namespace Config

/-- `TXCAP`, exactly `MAX_PAYLOAD + 4` (R8). -/
def txCap (c : Config) : Nat := c.maxPayload + 4

/-- `CRC_SEED` (R8, R68). -/
def crcSeed : Word := 0xC181#16

/-- `CRC_POLY`, reflected form (R8, R70). -/
def crcPoly : Word := 0xA001#16

/-- `MIN_FRAME` (R8, R84). -/
def minFrame : Nat := 5

/-- DESIGN CHOICE (log 1): the parameters State.reset carries, those of the example programs of
spec/95_test_vectors.md section 6, with `BOOT_RETRIES` unbounded as in the reference behaviour (R125). -/
def standard : Config where
  aw := .bits10
  maxPayload := 232
  maxPayload_pos := by decide
  maxPayload_le := by decide
  ibWindow := 500#16
  ibWindow_pos := by decide
  deadlineDefault := 5000#16
  deadlineDefault_pos := by decide
  rxCap := 237
  rxCap_ge := by decide
  rxCap_le := by decide
  tickPeriod := 1
  tickPeriod_pos := by decide
  bootRetries := none
  bootRetries_pos := by decide

end Config

/-- The host's session identity (R123). The source gives no widths (N16), so each value is a byte sequence. -/
structure Identity where
  localAddress : List Byte
  networkId : List Byte
  uniqueId : List Byte
  deriving DecidableEq, Repr, Inhabited

/-! Free values: constants with no body (log 3, 13, 14, 27). -/

/-- The n-th unspecified value of `DEC_ADDR` (R21, U10, log 3). -/
opaque Config.freeDecAddr : Nat → Word

/-- The n-th unspecified value of `DEC_CMD` (R22, U10, log 3). -/
opaque Config.freeDecCmd : Nat → Byte

/-- The n-th unspecified value of `DEC_PLEN` (R23, U10, log 3). -/
opaque Config.freeDecPlen : Nat → Word

/-- Whether the n-th request that cannot fail (`CRC16`, `RX_START`) answers with the code `OK`, or with the other code that
is no error, `NONE`: R58 does not say (log 27). -/
opaque Config.freeDone : Nat → Bool

/-- The identity-query command value, not in the source (N13, R122, log 13). -/
opaque Config.identityCommand : Byte

/-- The address the identity query is sent to, not in the source (N16, R122, log 13). -/
opaque Config.identityAddress : Word

/-- The "empty dummy payload" of the identity query, content and length not in the source (N16, R122, log 13). -/
opaque Config.identityPayload : List Byte

/-- What an identity read caches as the local address, from what was cached, the response's source address and its
payload (R123, N16, log 13). -/
opaque Config.localAddressOf : Option Identity → Word → List Byte → List Byte

/-- The network id in an identity response's payload (R122, N16, log 13). -/
opaque Config.networkIdOf : List Byte → List Byte

/-- The unique id in an identity response's payload (R122, N16, log 13). -/
opaque Config.uniqueIdOf : List Byte → List Byte

/-- The cached identity after a successful configure-radio operation, from the one before, the payload requested and the
payload returned (R124, log 14). -/
opaque Config.identityAfterConfigure : Identity → List Byte → List Byte → Identity

/-- The cached identity after another identity-changing operation of the host succeeded, from the one before, the
operation's command, the payload sent and the payload returned (R124, log 14). -/
opaque Config.identityAfterStore : Identity → Byte → List Byte → List Byte → Identity

end Sys2Proof
end

