-- ==== Sys2Proof/Machine/Crc.lean ====
section
/-! DEFINITION. The pure function `crc16` (spec/40_crc16.md R67 to R71). -/

namespace Sys2Proof.Machine

/-- One bit iteration: test bit 0, shift right, XOR the constant when the tested bit was set (R70). -/
def crcBit (acc : Word) : Word :=
  if acc.getLsbD 0 then (acc >>> 1) ^^^ Config.crcPoly else acc >>> 1

/-- `n` bit iterations (R70). -/
def crcBits : Nat → Word → Word
  | 0, acc => acc
  | n + 1, acc => crcBits n (crcBit acc)

/-- `crc16_byte`: XOR the zero-extended byte in (R69), then exactly 8 bit iterations (R70). -/
def crcByte (acc : Word) (b : Byte) : Word := crcBits 8 (acc ^^^ b.setWidth 16)

/-- The bytes taken in index order from accumulator `acc` (R69). -/
def crcFrom : Word → List Byte → Word
  | acc, [] => acc
  | acc, b :: s => crcFrom (crcByte acc b) s

/-- `crc16`: seeded with `CRC_SEED` (R68), the final accumulator returned as it is (R71). -/
def crc16 (s : List Byte) : Word := crcFrom Config.crcSeed s

end Sys2Proof.Machine
end

