-- ==== Sys2Proof/Machine/Operands.lean ====
section
/-! DEFINITION. Assembling and splitting operand values (spec/30_encoding.md R50, R51, R56, R57), and the legality
checks of operands (R60, R64, R65). -/

namespace Sys2Proof.Machine

/-- `v[7:0]`. -/
def loByte (v : Word) : Byte := v.setWidth 8

/-- `v[15:8]`. -/
def hiByte (v : Word) : Byte := (v >>> 8).setWidth 8

/-- `{hi, lo}`: the byte with bits 7:0 comes first on the wire (R41). -/
def joinLE (lo hi : Byte) : Word := (hi.setWidth 16 <<< 8) ||| lo.setWidth 16

/-- `2^AW - 1` as a 16-bit mask. -/
def addrMask (aw : AddrWidth) : Word := BitVec.ofNat 16 aw.addrMax

/-- `address_hi = (address >> 8) & ((2^AW - 1) >> 8)` (R51). -/
def addrHi (aw : AddrWidth) (address : Word) : Byte :=
  ((address >>> 8) &&& (addrMask aw >>> 8)).setWidth 8

/-- The address in two received bytes: `{b[1], b[0]} & (2^AW - 1)` (R56), here from the raw 16 bits. -/
def maskAddr (aw : AddrWidth) (raw : Word) : Word := raw &&& addrMask aw

/-- `address <= ADDR_MAX`, on the full 16-bit operand (R60, R76). -/
def addressInRange (aw : AddrWidth) (address : Word) : Bool := decide (address.toNat ≤ aw.addrMax)

/-- `n < MAX_PAYLOAD` (R77). -/
def payloadInRange (c : Config) (payload : List Byte) : Bool := decide (payload.length < c.maxPayload)

/-- `1 <= deadline` (R65, R92). -/
def deadlineLegal (deadline : Word) : Bool := decide (1 ≤ deadline.toNat)

end Sys2Proof.Machine
end

