-- ==== Sys2Proof/Machine/Status.lean ====
section
/-! DEFINITION. The outcomes of spec/60_exceptions.md R127, with the numeric codes of its table, and what a
decoded frame is. -/

namespace Sys2Proof.Machine

/-- The outcomes an FPE register can hold (R127 rows 0 to 7). -/
inductive Status where
  | none
  | ok
  | addressOutOfRange
  | payloadTooLarge
  | frameTooShort
  | checksumMismatch
  | timeout
  | rxOverrun
  deriving DecidableEq, Repr

/-- The 3-bit codes of `RX_OUTCOME` and `ENC_OUTCOME` (R127). -/
def Status.code : Status → BitVec 3
  | .none => 0#3
  | .ok => 1#3
  | .addressOutOfRange => 2#3
  | .payloadTooLarge => 3#3
  | .frameTooShort => 4#3
  | .checksumMismatch => 5#3
  | .timeout => 6#3
  | .rxOverrun => 7#3

/-- What a host call raises: an outcome of FPE, or one of the two errors that only the host finds. -/
inductive HostError where
  /-- An outcome of FPE passed on (R118). -/
  | status (e : Status)
  /-- The response's command is not the one sent (R119, R133). -/
  | unexpectedResponse
  /-- The echoed parameters are not those requested (R124); the source has no name for it (N17, U20). -/
  | echoMismatch
  deriving DecidableEq, Repr

/-- R127's code; 8 does not fit an FPE register (C13). The echo mismatch has no code in the spec. -/
def HostError.code : HostError → Option (BitVec 4)
  | .status e => some (e.code.setWidth 4)
  | .unexpectedResponse => some 8#4
  | .echoMismatch => Option.none

/-- An unpacked frame: address, command, payload (R83). -/
structure Message where
  address : Word
  command : Byte
  payload : List Byte
  deriving DecidableEq, Repr

end Sys2Proof.Machine
end

