-- ==== Sys2Proof/Machine/Frame.lean ====
section
/-! DEFINITION. The wire format (spec/30_encoding.md R49 to R57) and the pure functions `encode` and `decode`
(spec/41_frame_codec.md R75, R83). -/

namespace Sys2Proof.Machine

/-- The body followed by its CRC, low byte first (R54). -/
def withCrc (body : List Byte) : List Byte := body ++ [loByte (crc16 body), hiByte (crc16 body)]

/-- The bytes of a frame on the wire whose two address bytes hold the raw 16 bits `raw` (R49). -/
def wireFrame (raw : Word) (command : Byte) (payload : List Byte) : List Byte :=
  withCrc ([loByte raw, hiByte raw, command] ++ payload)

/-- The first `n + 3` bytes of the frame `ENCODE` makes: address bytes (R50, R51), command (R52), payload (R53). -/
def frameBody (aw : AddrWidth) (address : Word) (command : Byte) (payload : List Byte) : List Byte :=
  [loByte address, addrHi aw address, command] ++ payload

/-- The pure function `encode` (R75): the address check first (R78), then the payload check, then the frame. -/
def encodeFrame (c : Config) (address : Word) (command : Byte) (payload : List Byte) :
    Except Status (List Byte) :=
  if addressInRange c.aw address then
    if payloadInRange c payload then .ok (withCrc (frameBody c.aw address command payload))
    else .error .payloadTooLarge
  else .error .addressOutOfRange

/-- The frame's checks and fields (R83 to R88) with the address as the raw 16 bits: the length check first, then the
CRC check. The default of `getD` is never used: the length is at least 5 there. -/
def parseFrame (b : List Byte) : Except Status Message :=
  if b.length < Config.minFrame then .error .frameTooShort
  else if crc16 (b.take (b.length - 2)) = joinLE (b.getD (b.length - 2) 0) (b.getD (b.length - 1) 0) then
    .ok { address := joinLE (b.getD 0 0) (b.getD 1 0)
          command := b.getD 2 0
          payload := (b.take (b.length - 2)).drop 3 }
  else .error .checksumMismatch

/-- The pure function `decode` (R83): the address masked to `AW` bits (R56, R86). -/
def decodeFrame (aw : AddrWidth) (b : List Byte) : Except Status Message :=
  match parseFrame b with
  | .ok m => .ok { m with address := maskAddr aw m.address }
  | .error e => .error e

end Sys2Proof.Machine
end

