-- ==== Sys2Proof/Syntax.lean ====
section
/-! DEFINITION. The instruction set: one constructor per row of spec/opcode_table.json (R3, R58, R66), and the
table's format column, which says on which port a row is presented. -/

namespace Sys2Proof

/-- The format column of spec/opcode_table.json. -/
inductive Format where
  | opsel
  | event
  | internal
  | pseudo
  | transport
  | hostPseudo
  | wire
  | commandCode
  deriving DecidableEq, Repr

/-- One constructor per row of spec/opcode_table.json. -/
inductive Instr where
  /-- `NONE`: no request presented (R58). -/
  | noRequest
  /-- `CRC16(s)` (R67). -/
  | crc16 (bytes : List Byte)
  /-- `ENCODE(address, command, payload)` (R75). -/
  | encode (address : Word) (command : Byte) (payload : List Byte)
  /-- `RX_START(deadline)` (R92). -/
  | rxStart (deadline : Word)
  /-- `RX_TICK`, the tick strobe (R94, R95). -/
  | rxTick
  /-- `DECODE` on `RXBUF[0..RX_I)` (R83, R89). -/
  | decode
  /-- `RECEIVE(deadline)` (R105). -/
  | receive (deadline : Word)
  /-- `T.AVAIL()` (R37). -/
  | tAvail
  /-- `T.READ()` (R38). -/
  | tRead
  /-- `T.WRITE(s)` (R39). -/
  | tWrite (bytes : List Byte)
  /-- `T.DISCARD()` (R40). -/
  | tDiscard
  /-- `REQUEST(address, command, payload)` (R113). -/
  | request (address : Word) (command : Byte) (payload : List Byte)
  /-- `LOCALREAD()` (R122). -/
  | localRead
  /-- `FRAME`: a frame of the wire format with a payload (R49); `address` is the raw 16 bits on the wire, the upper
  bits of `address_hi` included (R62). -/
  | frame (address : Word) (command : Byte) (payload : List Byte)
  /-- `FRAME.MIN`: the 5-byte frame, the wire format with an empty payload (R55). -/
  | frameMin (address : Word) (command : Byte)
  /-- `CMD.0xD6`: the configure-radio request (R63, R124). -/
  | cmdD6 (address : Word) (payload : List Byte)
  deriving DecidableEq, Repr

/-- The format column of the instruction's row in spec/opcode_table.json. -/
def Instr.format : Instr → Format
  | .noRequest => .opsel
  | .crc16 _ => .opsel
  | .encode _ _ _ => .opsel
  | .rxStart _ => .opsel
  | .rxTick => .event
  | .decode => .internal
  | .receive _ => .pseudo
  | .tAvail => .transport
  | .tRead => .transport
  | .tWrite _ => .transport
  | .tDiscard => .transport
  | .request _ _ _ => .hostPseudo
  | .localRead => .hostPseudo
  | .frame _ _ _ => .wire
  | .frameMin _ _ => .wire
  | .cmdD6 _ _ => .commandCode

end Sys2Proof
end

