-- ==== Sys2Proof/WellFormed.lean ====
section
/-! DEFINITION. Which instruction terms have words. -/

namespace Sys2Proof

/-- The payload of `ENCODE` has a 16-bit length `plen` (R59), so at most 65535 bytes. A `FRAME` term has a payload: the
frame with none is the row `FRAME.MIN` (R55). Every other operand is bounded by its type or unbounded in the spec. -/
def Instr.wf : Instr → Bool
  | .noRequest => true
  | .crc16 _ => true
  | .encode _ _ payload => decide (payload.length ≤ 65535)
  | .rxStart _ => true
  | .rxTick => true
  | .decode => true
  | .receive _ => true
  | .tAvail => true
  | .tRead => true
  | .tWrite _ => true
  | .tDiscard => true
  | .request _ _ _ => true
  | .localRead => true
  | .frame _ _ payload => !payload.isEmpty
  | .frameMin _ _ => true
  | .cmdD6 _ _ => true

end Sys2Proof
end

