-- ==== Sys2Proof/Decode.lean ====
section
/-! DEFINITION. The decoder from words to instructions, and the encoder. A word is a format (the port it is presented
on: the format column of spec/opcode_table.json) and bytes. What the spec fixes is followed: `OP[1:0]` (R58), the operand
widths (R59), the wire format (R49), the command byte 0xD6 (R63). The lanes after them are a DESIGN CHOICE (log 6):
16-bit operands low byte first, `plen` then `plen` bytes for `ENCODE`, a byte sequence of any length as (1, byte) pairs
ended by 0, selector bytes for formats with several rows and no encoding; lanes an operation does not use read zero. -/

namespace Sys2Proof

open Machine (Status Message parseFrame wireFrame loByte hiByte joinLE)

/-- Why a word is no instruction. -/
inductive DecodeError where
  /-- Fewer bytes than the operands need. -/
  | truncated
  /-- A byte sequence's marker is neither 0 nor 1. -/
  | badMarker (b : Byte)
  /-- A lane the operation does not use is not zero. -/
  | trailingBytes
  /-- No row of the format has this selector. -/
  | unknownSelector (f : Format) (b : Byte)
  /-- The command code has no row (only 0xD6 has: R63). -/
  | unknownCommand (b : Byte)
  /-- The bytes on the wire are no frame (R84, R85). -/
  | notAFrame (e : Status)
  deriving DecidableEq, Repr

/-- The bytes of a byte sequence operand. -/
def encodeSeq : List Byte → List Byte
  | [] => [0#8]
  | b :: s => 1#8 :: b :: encodeSeq s

/-- A byte sequence operand and the bytes after it. -/
def readSeq : List Byte → Except DecodeError (List Byte × List Byte)
  | [] => .error .truncated
  | marker :: rest =>
    if marker = 0#8 then .ok ([], rest)
    else if marker = 1#8 then
      match rest with
      | [] => .error .truncated
      | b :: rest' =>
        match readSeq rest' with
        | .ok (s, after) => .ok (b :: s, after)
        | .error e => .error e
    else .error (.badMarker marker)

/-- The bytes of a 16-bit operand. -/
def encodeWord (v : Word) : List Byte := [loByte v, hiByte v]

/-- A 16-bit operand and the bytes after it. -/
def readWord : List Byte → Except DecodeError (Word × List Byte)
  | lo :: hi :: rest => .ok (joinLE lo hi, rest)
  | _ => .error .truncated

/-- An 8-bit operand and the bytes after it. -/
def readByte : List Byte → Except DecodeError (Byte × List Byte)
  | b :: rest => .ok (b, rest)
  | [] => .error .truncated

/-- `n` bytes and the bytes after them. -/
def readBytes (n : Nat) (bs : List Byte) : Except DecodeError (List Byte × List Byte) :=
  if n ≤ bs.length then .ok (bs.take n, bs.drop n) else .error .truncated

/-- The instruction, if the lanes it does not use are zero. -/
def finishDecode (i : Instr) (rest : List Byte) : Except DecodeError Instr :=
  if rest.all (· == 0#8) then .ok i else .error .trailingBytes

/-- `OP[1:0]` of the first byte on the request port (R58); the port has no further select bits. -/
def opSelect (b : Byte) : BitVec 2 := b.setWidth 2

/-- `CRC16`'s operand: a byte sequence of any length (R67). -/
def decodeCrc16 (bs : List Byte) : Except DecodeError Instr := do
  let (s, rest) ← readSeq bs
  finishDecode (.crc16 s) rest

/-- `ENCODE`'s operands: address, command, plen, payload (R58, R59). -/
def decodeEncode (bs : List Byte) : Except DecodeError Instr := do
  let (address, bs) ← readWord bs
  let (command, bs) ← readByte bs
  let (plen, bs) ← readWord bs
  let (payload, rest) ← readBytes plen.toNat bs
  finishDecode (.encode address command payload) rest

/-- `RX_START`'s operand (R92). -/
def decodeRxStart (bs : List Byte) : Except DecodeError Instr := do
  let (deadline, rest) ← readWord bs
  finishDecode (.rxStart deadline) rest

/-- `RECEIVE`'s operand (R105). -/
def decodeReceive (bs : List Byte) : Except DecodeError Instr := do
  let (deadline, rest) ← readWord bs
  finishDecode (.receive deadline) rest

/-- `T.WRITE`'s operand (R39). -/
def decodeTWrite (bs : List Byte) : Except DecodeError Instr := do
  let (s, rest) ← readSeq bs
  finishDecode (.tWrite s) rest

/-- `REQUEST`'s operands (R113). -/
def decodeRequest (bs : List Byte) : Except DecodeError Instr := do
  let (address, bs) ← readWord bs
  let (command, bs) ← readByte bs
  let (payload, rest) ← readSeq bs
  finishDecode (.request address command payload) rest

/-- The operands of the configure-radio request (R63, R124). -/
def decodeCmdD6 (bs : List Byte) : Except DecodeError Instr := do
  let (address, bs) ← readWord bs
  let (payload, rest) ← readSeq bs
  finishDecode (.cmdD6 address payload) rest

/-- The request port: all four select codes are assigned (R58, R65). -/
def decodeOpsel : List Byte → Except DecodeError Instr
  | [] => .error .truncated
  | b :: bs =>
    if opSelect b = 0b00#2 then finishDecode .noRequest bs
    else if opSelect b = 0b01#2 then decodeCrc16 bs
    else if opSelect b = 0b10#2 then decodeEncode bs
    else decodeRxStart bs

/-- The transport rows, selected in the table's order (log 6). -/
def decodeTransport : List Byte → Except DecodeError Instr
  | [] => .error .truncated
  | b :: bs =>
    if b = 0#8 then finishDecode .tAvail bs
    else if b = 1#8 then finishDecode .tRead bs
    else if b = 2#8 then decodeTWrite bs
    else if b = 3#8 then finishDecode .tDiscard bs
    else .error (.unknownSelector .transport b)

/-- The host rows, selected in the table's order (log 6). -/
def decodeHostPseudo : List Byte → Except DecodeError Instr
  | [] => .error .truncated
  | b :: bs =>
    if b = 0#8 then decodeRequest bs
    else if b = 1#8 then finishDecode .localRead bs
    else .error (.unknownSelector .hostPseudo b)

/-- A frame on the wire, delimited by its own length (R55): 5 bytes are the row `FRAME.MIN`, more are `FRAME`. -/
def decodeWire (bs : List Byte) : Except DecodeError Instr :=
  match parseFrame bs with
  | .error e => .error (.notAFrame e)
  | .ok m =>
    if m.payload.isEmpty then .ok (.frameMin m.address m.command)
    else .ok (.frame m.address m.command m.payload)

/-- A command code with a row of its own: only 0xD6 (R63). -/
def decodeCommandCode : List Byte → Except DecodeError Instr
  | [] => .error .truncated
  | b :: bs => if b = 0xD6#8 then decodeCmdD6 bs else .error (.unknownCommand b)

/-- The decoder: total on any format and bytes, rejecting by name. -/
def decode : Format → List Byte → Except DecodeError Instr
  | .opsel, bs => decodeOpsel bs
  | .event, bs => finishDecode .rxTick bs
  | .internal, bs => finishDecode .decode bs
  | .pseudo, bs => decodeReceive bs
  | .transport, bs => decodeTransport bs
  | .hostPseudo, bs => decodeHostPseudo bs
  | .wire, bs => decodeWire bs
  | .commandCode, bs => decodeCommandCode bs

/-- The word of a well-formed instruction: its format and its bytes. -/
def encode : Instr → Format × List Byte
  | .noRequest => (.opsel, [0b00#8])
  | .crc16 s => (.opsel, 0b01#8 :: encodeSeq s)
  | .encode address command payload =>
    (.opsel, 0b10#8 :: (encodeWord address ++ [command] ++ encodeWord (BitVec.ofNat 16 payload.length) ++ payload))
  | .rxStart deadline => (.opsel, 0b11#8 :: encodeWord deadline)
  | .rxTick => (.event, [])
  | .decode => (.internal, [])
  | .receive deadline => (.pseudo, encodeWord deadline)
  | .tAvail => (.transport, [0#8])
  | .tRead => (.transport, [1#8])
  | .tWrite s => (.transport, 2#8 :: encodeSeq s)
  | .tDiscard => (.transport, [3#8])
  | .request address command payload => (.hostPseudo, 0#8 :: (encodeWord address ++ [command] ++ encodeSeq payload))
  | .localRead => (.hostPseudo, [1#8])
  | .frame address command payload => (.wire, wireFrame address command payload)
  | .frameMin address command => (.wire, wireFrame address command [])
  | .cmdD6 address payload => (.commandCode, 0xD6#8 :: (encodeWord address ++ encodeSeq payload))

/-- `n` bytes of `w`, the byte with bits 7:0 first. -/
def bytesOfNat : Nat → Nat → List Byte
  | 0, _ => []
  | n + 1, w => BitVec.ofNat 8 w :: bytesOfNat n (w / 256)

/-- The port a word of spec/opcode_table.json is presented on (log 7): a word of more than one byte is a frame on the
wire, the only rows with more; a one-byte word is the command byte 0xD6 or a select code. -/
def tableFormat (nbits w : Nat) : Format :=
  if 8 < nbits then .wire else if w % 256 = 0xD6 then .commandCode else .opsel

/-- The bytes of a table word: its own, then, for a one-byte word, operand lanes of zeros. Five lanes hold every operand,
since all lengths in them are 0; a frame has no operand lanes. -/
def tableBytes (nbits w : Nat) : List Byte :=
  bytesOfNat ((nbits + 7) / 8) w ++ List.replicate (if 8 < nbits then 0 else 5) 0#8

/-- The instruction the decoder reads from a word numbered as spec/opcode_table.json numbers it. -/
def decodeTableWord (nbits w : Nat) : Option Instr :=
  match decode (tableFormat nbits w) (tableBytes nbits w) with
  | .ok i => some i
  | .error _ => none

end Sys2Proof
end

