-- ==== Sys2Proof/Machine/State.lean ====
section
/-! DEFINITION. The machine's state (spec/10_state.md R13 to R26, spec/20_memory.md R31, R34), the reasons a step can stop,
and the state after reset (R29). Plain data throughout. -/

namespace Sys2Proof.Machine

/-- Bytes of a buffer space by index, exactly the defined ones (log 4). -/
abbrev Memory := List Host.Cell

/-- The buffer spaces inside FPE (R31). -/
inductive Space where
  | rxbuf
  | txbuf
  deriving DecidableEq, Repr

/-- `RX_STATE` (R14). -/
inductive RxState where
  | idle
  | run
  deriving DecidableEq, Repr

/-- What an operation answered: the results on the response port (R58) and the return of a host call (R105, R113); log 9. -/
inductive Answer where
  /-- No result. -/
  | nothing
  /-- `CRC16`'s result (R67). -/
  | crc (value : Word)
  /-- `ENCODE` with outcome `OK`, and the frame (R58). -/
  | encoded (frame : List Byte)
  /-- `T.AVAIL`'s result (R37). -/
  | available (b : Bool)
  /-- `T.READ`'s result (R38). -/
  | byte (value : Byte)
  /-- `Ok(address, command, payload)` of `DECODE` and `RECEIVE` (R83, R105). -/
  | message (m : Message)
  /-- `Ok(payload, source address)` of `REQUEST` (R113, R120). -/
  | returned (payload : List Byte) (source : Word)
  /-- The operation raised this error (R134). -/
  | raised (e : HostError)
  deriving DecidableEq, Repr

/-- Which host call waits for a receive to end. -/
inductive Call where
  /-- `RECEIVE` (R105). -/
  | receive
  /-- `REQUEST` with this command (R113). -/
  | request (command : Byte)
  /-- `LOCALREAD` (R122). -/
  | localRead
  /-- The configure-radio request with this payload (R124). -/
  | configure (payload : List Byte)
  /-- Another identity-changing operation (store address, store network id, low-power class) with this command and payload
  (R124). -/
  | identityStore (command : Byte) (payload : List Byte)
  /-- The identity bootstrap, with the retries left, `none` for unbounded (R125). -/
  | bootstrap (left : Option Nat)
  deriving DecidableEq, Repr

/-- The host (R113, R121): not in a call, or blocked in one. -/
inductive HostPhase where
  | idle
  | waiting (call : Call)
  deriving DecidableEq, Repr

/-- What the outside presents to the block in one step. -/
inductive Input where
  /-- A word on the port of a format. -/
  | word (format : Format) (bytes : List Byte)
  /-- The reset input is asserted (R147). -/
  | reset
  /-- The host starts its session: the identity bootstrap (R125, R152). -/
  | sessionStart
  /-- The host starts an identity-changing operation that has no row of its own (store address, store network id, low-power
  class): its command and payload are not in the source, so they come with it (R124, log 14). -/
  | identityStore (address : Word) (command : Byte) (payload : List Byte)
  deriving DecidableEq, Repr

/-- One step's worth of outside: the bytes the environment appends to `TQ` (R34), then the input. -/
structure Stimulus where
  arrivals : List Byte
  input : Input
  deriving DecidableEq, Repr

/-- Why the machine stops with a fault. -/
inductive Fault where
  /-- Raised by a read of a buffer byte that is not defined: `DECODE`'s and the host's reads of `RXBUF`, the host's read of
  `TXBUF` (R29, U7). Safe: the hardware would read some byte. No state that meets `State.Inv` reaches it by a step. -/
  | undefinedByte (space : Space) (index : Nat)
  /-- Raised by a host read of `DEC_ADDR`, `DEC_CMD` or `DEC_PLEN` while `RX_OUTCOME` is not `OK` (R21 to R23, U10). Safe:
  the hardware would read some value. No step reaches it: the host's calls read them only when `RX_OUTCOME` is `OK`. -/
  | undefinedDecode
  deriving DecidableEq, Repr

/-- Why the machine does not take an operation. -/
inductive Refusal where
  /-- Raised by `exec` for an instruction with no meaning yet. Safe. -/
  | notModelled (mnemonic : String)
  /-- Raised by `CRC16`, `ENCODE`, `RX_START` and the calls that issue them while `RX_STATE = RUN` (R93, R158, U8). Safe. -/
  | requestWhileRunning
  /-- Raised by `RX_START` and `RECEIVE` with `deadline = 0` (R65, U9). Safe. -/
  | illegalDeadline
  /-- Raised by `T.READ` on an empty queue (R38, U14). Safe. -/
  | readOfEmptyQueue
  /-- Raised by a host call issued before the host's first call has returned (R121). Safe. -/
  | reentrantCall
  /-- Raised by `step` for a word that decodes to no instruction. Safe. -/
  | undecodable (e : DecodeError)
  deriving DecidableEq, Repr

/-- The whole state. -/
structure State where
  /-- The parameters of R8; no step writes this field (log 1). -/
  cfg : Config
  /-- `RX_STATE` (R14). -/
  rxState : RxState
  /-- `RX_I` (R15). -/
  rxI : Word
  /-- `RX_IB` (R16). -/
  rxIb : Word
  /-- `RX_DL` (R17). -/
  rxDl : Word
  /-- `RX_OVF` (R18). -/
  rxOvf : Bool
  /-- `RX_OUTCOME` (R19). -/
  rxOutcome : Status
  /-- `RXBUF` (R20): its defined bytes. -/
  rxbuf : Memory
  /-- `DEC_ADDR` (R21). -/
  decAddr : Word
  /-- `DEC_CMD` (R22). -/
  decCmd : Byte
  /-- `DEC_PLEN` (R23). -/
  decPlen : Word
  /-- `TXBUF` (R24): its defined bytes. -/
  txbuf : Memory
  /-- `TXLEN` (R25). -/
  txLen : Word
  /-- `ENC_OUTCOME` (R26). -/
  encOutcome : Status
  /-- The results on the response port and the host's returned results (R58, log 9). -/
  answer : Answer
  /-- The outcome on the response port, 3 bits by `Status.code` (R58, R127, log 27). -/
  respOutcome : Status
  /-- `TQ`, head first (R34). -/
  tq : List Byte
  /-- The line output: every byte handed to `T.WRITE`, first byte first (R28 (b), R39). -/
  lineOut : List Byte
  /-- The host's pending call (R113, R121). -/
  host : HostPhase
  /-- The session identity cache (R123); `none` while it holds nothing valid (R152). -/
  identity : Option Identity
  /-- What the outside presents next, in order (R34, R95, log 5). -/
  schedule : List Stimulus
  /-- The MODEL's own: how many times free values were drawn (log 3). -/
  freeCount : Nat
  deriving DecidableEq, Repr

/-- The outcome of a step of this machine. -/
abbrev Result := Host.Outcome State Fault Refusal

/-- The machine right after reset (R29). `DEC_ADDR`, `DEC_CMD`, `DEC_PLEN` are unspecified there: zero is a DESIGN CHOICE
(log 2). The parameters (log 1), the empty queue, line, schedule and response port (log 1, 5, 9) are DESIGN CHOICEs. -/
def State.reset : State where
  cfg := Config.standard
  rxState := .idle
  rxI := 0#16
  rxIb := 0#16
  rxDl := 0#16
  rxOvf := false
  rxOutcome := .none
  rxbuf := []
  decAddr := 0#16
  decCmd := 0#8
  decPlen := 0#16
  txbuf := []
  txLen := 0#16
  encOutcome := .none
  answer := .nothing
  respOutcome := .none
  tq := []
  lineOut := []
  host := .idle
  identity := none
  schedule := []
  freeCount := 0

end Sys2Proof.Machine
end

