-- ==== Sys2Proof/Machine/Flags.lean ====
section
/-! DEFINITION. The flag-like state (spec/10_state.md R30): the sticky bit `RX_OVF` and the outcome of a receive that
silence ended. FPE has no condition codes. -/

namespace Sys2Proof.Machine

/-- `RX_OVF` after a tick: sticky, set when a byte is available and the buffer is full (R18, R98). -/
def overrunFlag (old available full : Bool) : Bool := old || (available && full)

/-- The silence test at the end of a tick (R101). -/
def silenceHolds (s : State) : Bool := decide (s.rxIb.toNat = 0)

/-- The Empty test at the end of a tick (R102). -/
def emptyHolds (s : State) : Bool := decide (s.rxDl.toNat = 0) && decide (s.rxI.toNat = 0)

end Sys2Proof.Machine
end

