-- ==== Sys2Proof/Machine/Memory.lean ====
section
/-! DEFINITION. The buffer spaces as memory (spec/20_memory.md R31): `MemRead` and `MemWrite` of one byte, and sequences of
them. A buffer's list holds exactly its defined bytes, indices strictly rising; an unlisted byte has no value (R29, log 4). -/

namespace Sys2Proof.Machine

/-- Every listed index is above `lo - 1` and the indices strictly rise. -/
def Memory.wfFrom : Nat → Memory → Bool
  | _, [] => true
  | lo, (k, _) :: m => decide (lo ≤ k) && Memory.wfFrom (k + 1) m

/-- The canonical form: indices strictly rising. -/
def Memory.wf (m : Memory) : Bool := Memory.wfFrom 0 m

/-- `MemRead(SPACE, k, 1)`; `none` where the byte is not defined. -/
def Memory.read : Memory → Nat → Option Byte
  | [], _ => none
  | (a, b) :: m, k => if a = k then some b else Memory.read m k

/-- `MemWrite(SPACE, k, 1, v)`. -/
def Memory.write : Memory → Nat → Byte → Memory
  | [], k, v => [(k, v)]
  | (a, b) :: m, k, v =>
    if k < a then (k, v) :: (a, b) :: m
    else if k = a then (k, v) :: m
    else (a, b) :: Memory.write m k v

/-- Byte writes at `k`, `k + 1`, … in that order. -/
def Memory.writeAll : Memory → Nat → List Byte → Memory
  | m, _, [] => m
  | m, k, v :: vs => Memory.writeAll (Memory.write m k v) (k + 1) vs

/-- The `n` bytes at `k`, `k + 1`, …; the first index that is not defined where one is not. -/
def Memory.readRange (m : Memory) : Nat → Nat → Except Nat (List Byte)
  | _, 0 => .ok []
  | k, n + 1 =>
    match Memory.read m k with
    | none => .error k
    | some b =>
      match Memory.readRange m (k + 1) n with
      | .ok bs => .ok (b :: bs)
      | .error e => .error e

end Sys2Proof.Machine
end

