-- ==== Sys2Proof/Machine/Ops.lean ====
section
/-! DEFINITION. The named operations over the state: guards, free values, the four transport operations, host reads,
raising an error (spec/60_exceptions.md R134), the reset input (spec/70_reset_and_hazards.md R147), arrivals. There is no
return from an error (R137). -/

namespace Sys2Proof.Machine

/-- Go on from a next state; a fault or a refusal stays. -/
def andThen (r : Result) (k : State → Result) : Result :=
  match r with
  | .next s => k s
  | .fault f => .fault f
  | .refused q => .refused q

/-- `CRC16`, `ENCODE` and `RX_START` are issuable only while `RX_STATE = IDLE` (R58, R158); otherwise refused (U8). -/
def whenIdle (s : State) (k : State → Result) : Result :=
  match s.rxState with
  | .idle => k s
  | .run => .refused .requestWhileRunning

/-- A host call is issued only when the last one has returned (R121). -/
def whenHostFree (s : State) (k : State → Result) : Result :=
  match s.host with
  | .idle => k s
  | .waiting _ => .refused .reentrantCall

/-- `DEC_ADDR, DEC_CMD, DEC_PLEN <- unspecified` (R89, R92, U10): fresh free values (log 3). -/
def freeDec (s : State) : State :=
  { s with
    decAddr := Config.freeDecAddr s.freeCount
    decCmd := Config.freeDecCmd s.freeCount
    decPlen := Config.freeDecPlen s.freeCount
    freeCount := s.freeCount + 1 }

/-- The outcome on the response port of a request that has no errors, `CRC16` and `RX_START` (R67, R92): one of R127's two
codes that are no error, left free (R58, log 27). -/
def doneOutcome (n : Nat) : Status := if Config.freeDone n then .ok else .none

/-- The unit whose operation raises an error. -/
inductive ErrorUnit where
  | codec
  | framer
  deriving DecidableEq, Repr

/-- `raise E` (R134): in `ENCODE`, `TXLEN <- 0`, `ENC_OUTCOME <- E`, `TXBUF` unspecified (a), `E` answered (R58); in the terminating tick,
`RX_OUTCOME <- E`, `RX_STATE <- IDLE`, `DEC_*` unspecified (b, c, d; U10). Nothing is saved and no handler runs. -/
def raiseError (u : ErrorUnit) (e : Status) (s : State) : State :=
  match u with
  | .codec =>
    { s with txbuf := [], txLen := 0#16, encOutcome := e, answer := .raised (.status e), respOutcome := e }
  | .framer => freeDec { s with rxOutcome := e, rxState := .idle }

/-- `T.AVAIL()` (R37). -/
def tAvail (s : State) : Bool := !s.tq.isEmpty

/-- `T.READ()` on a queue that is not empty (R38). -/
def tRead (s : State) : Option (Byte × State) :=
  match s.tq with
  | [] => none
  | b :: rest => some (b, { s with tq := rest })

/-- `T.WRITE(s)` (R39). -/
def tWrite (bytes : List Byte) (s : State) : State := { s with lineOut := s.lineOut ++ bytes }

/-- `T.DISCARD()` (R40). -/
def tDiscard (s : State) : State := { s with tq := [] }

/-- The host is blocked in a call until the receive ends (R105). -/
def hostWaits (call : Call) (s : State) : State := { s with host := .waiting call }

/-- The environment appends bytes to the tail of `TQ` (R34). -/
def arrive (bytes : List Byte) (s : State) : State := { s with tq := s.tq ++ bytes }

/-- The buffer bytes of a space. -/
def spaceOf (s : State) : Space → Memory
  | .rxbuf => s.rxbuf
  | .txbuf => s.txbuf

/-- A read of `n` buffer bytes from index `k`; a byte that is not defined is a fault (R29, U7). -/
def readSpace (s : State) (sp : Space) (k n : Nat) : Except Fault (List Byte) :=
  match Memory.readRange (spaceOf s sp) k n with
  | .ok bs => .ok bs
  | .error e => .error (.undefinedByte sp e)

/-- A host read of `DEC_ADDR`, `DEC_CMD`, `DEC_PLEN` (R21 to R23): valid only while `RX_OUTCOME = OK` (U10). -/
def hostReadDec (s : State) : Except Fault (Word × Byte × Word) :=
  if s.rxOutcome = .ok then .ok (s.decAddr, s.decCmd, s.decPlen) else .error .undefinedDecode

/-- The received message as the host reads it (R105, R120): `DEC_ADDR`, `DEC_CMD`, `RXBUF[3 .. 3 + DEC_PLEN)`. -/
def hostReadMessage (s : State) : Except Fault Message :=
  match hostReadDec s with
  | .error f => .error f
  | .ok (address, command, plen) =>
    match readSpace s .rxbuf 3 plen.toNat with
    | .error f => .error f
    | .ok payload => .ok { address, command, payload }

/-- The reset input (R29, R147 to R149): every FPE register to its reset value, `DEC_*` and the buffers unspecified, the
transport untouched. The host's pending call is abandoned without an outcome (R148, log 20). -/
def applyReset (s : State) : State :=
  freeDec
    { s with
      rxState := .idle
      rxI := 0#16
      rxIb := 0#16
      rxDl := 0#16
      rxOvf := false
      rxOutcome := .none
      rxbuf := []
      txbuf := []
      txLen := 0#16
      encOutcome := .none
      answer := .nothing
      respOutcome := .none
      host := .idle }

/-- The tick stream of R66 as a schedule: one token per tick, `none` for `--`. -/
def tickStream (tokens : List (Option Byte)) : List Stimulus :=
  tokens.map fun t => { arrivals := t.toList, input := .word .event [] }

end Sys2Proof.Machine
end

