-- ==== Sys2Proof/Machine/CodecUnit.lean ====
section
/-! DEFINITION. The CODEC unit: `ENCODE` and `DECODE` bound to the state (spec/41_frame_codec.md R75, R81, R83, R89). -/

namespace Sys2Proof.Machine

/-- `TXBUF[0 .. len) <- f`, every byte above unspecified, `TXLEN <- len`, `ENC_OUTCOME <- OK` (R81), both answered (R58). -/
def storeFrame (f : List Byte) (s : State) : State :=
  { s with
    txbuf := Memory.writeAll [] 0 f
    txLen := BitVec.ofNat 16 f.length
    encOutcome := .ok
    answer := .encoded f
    respOutcome := .ok }

/-- `ENCODE`'s state binding (R75, R81). -/
def encodeInto (address : Word) (command : Byte) (payload : List Byte) (s : State) : State :=
  match encodeFrame s.cfg address command payload with
  | .ok f => storeFrame f s
  | .error e => raiseError .codec e s

/-- `ENCODE` (R75). -/
def execEncode (address : Word) (command : Byte) (payload : List Byte) (s : State) : Result :=
  whenIdle s fun s => .next (encodeInto address command payload s)

/-- `decode(RXBUF[0 .. RX_I))` (R89). -/
def decodeBuffer (s : State) : Except Fault (Except Status Message) :=
  match readSpace s .rxbuf 0 s.rxI.toNat with
  | .error f => .error f
  | .ok b => .ok (decodeFrame s.cfg.aw b)

/-- `DEC_ADDR <- address; DEC_CMD <- command; DEC_PLEN <- RX_I - 5` (R89). -/
def bindMessage (m : Message) (s : State) : State :=
  { s with decAddr := m.address, decCmd := m.command, decPlen := s.rxI - 5#16 }

/-- `DECODE` (R83, R89): on success the three registers, on an error they become unspecified; `RX_OUTCOME` is the
terminating tick's to write. Log 15: presented on its own it does exactly this. -/
def execDecode (s : State) : Result :=
  match decodeBuffer s with
  | .error f => .fault f
  | .ok (.ok m) => .next { bindMessage m s with answer := .message m }
  | .ok (.error e) => .next { freeDec s with answer := .raised (.status e) }

end Sys2Proof.Machine
end

