-- ==== Sys2Proof/Machine/CrcUnit.lean ====
section
/-! DEFINITION. The request port with no request, and the CRC16 unit (spec/30_encoding.md R58, spec/40_crc16.md R67). -/

namespace Sys2Proof.Machine

/-- `NONE`: no request is presented; the block does nothing (R58). -/
def execNoRequest (s : State) : Result := .next s

/-- `CRC16(s)` (R67): the response port carries the checksum and a code that is no error; no register, buffer or flag of
FPE is written. -/
def execCrc16 (bytes : List Byte) (s : State) : Result :=
  whenIdle s fun s =>
    .next
      { s with
        answer := .crc (crc16 bytes)
        respOutcome := doneOutcome s.freeCount
        freeCount := s.freeCount + 1 }

end Sys2Proof.Machine
end

