-- ==== Sys2Proof/Machine/Framer.lean ====
section
/-! DEFINITION. The FRX unit (spec/42_frame_receiver.md): `RX_START`, `RX_TICK`, and `RECEIVE`'s start. -/

namespace Sys2Proof.Machine

/-- `RX_START`'s writes (R92). All of `RXBUF` becomes undefined (R20, log 4). -/
def armFramer (deadline : Word) (s : State) : State :=
  freeDec
    { s with
      rxI := 0#16
      rxIb := s.cfg.ibWindow
      rxDl := deadline
      rxOvf := false
      rxOutcome := .none
      rxbuf := []
      rxState := .run
      answer := .nothing
      respOutcome := doneOutcome s.freeCount }

/-- Issuing `RX_START`: only in `IDLE` (R93), `deadline = 0` refused (R65, U9). -/
def startReceive (deadline : Word) (s : State) : Result :=
  whenIdle s fun s =>
    if deadlineLegal deadline then .next (armFramer deadline s) else .refused .illegalDeadline

/-- `RX_START(deadline)` (R92). -/
def execRxStart (deadline : Word) (s : State) : Result := startReceive deadline s

/-- Step 1: byte arrival (R96), at most one a tick (R97), dropped with `RX_OVF` set when the buffer is full (R98). -/
def tickArrival (s : State) : State :=
  match tRead s with
  | none => s
  | some (v, s) =>
    let full := decide (s.cfg.rxCap ≤ s.rxI.toNat)
    let s := { s with rxOvf := overrunFlag s.rxOvf true full, rxIb := s.cfg.ibWindow }
    if full then s else { s with rxbuf := Memory.write s.rxbuf s.rxI.toNat v, rxI := s.rxI + 1#16 }

/-- Step 2: the inter-byte countdown (R99). -/
def tickInterByte (s : State) : State :=
  if 1 ≤ s.rxI.toNat then { s with rxIb := s.rxIb - 1#16 } else s

/-- Step 3: the deadline countdown, saturating at zero (R17, R100). -/
def tickDeadline (s : State) : State :=
  if 0 < s.rxDl.toNat then { s with rxDl := s.rxDl - 1#16 } else s

/-- Termination by silence (R104): `RxOverrun` before any decode outcome (R140), else the decoder's outcome. -/
def endBySilence (s : State) : Result :=
  if s.rxOvf then .next (raiseError .framer .rxOverrun s)
  else
    match decodeBuffer s with
    | .error f => .fault f
    | .ok (.ok m) => .next { bindMessage m s with rxOutcome := .ok, rxState := .idle }
    | .ok (.error e) => .next (raiseError .framer e s)

/-- Step 4: the silence test (R101), then the Empty test (R102). -/
def tickTerminate (s : State) : Result :=
  if silenceHolds s then endBySilence s
  else if emptyHolds s then .next (raiseError .framer .timeout s)
  else .next s

/-- `RX_TICK` (R94): the four steps in order (R44); no effect in `IDLE` (R106). -/
def execRxTick (s : State) : Result :=
  match s.rxState with
  | .idle => .next s
  | .run => tickTerminate (tickDeadline (tickInterByte (tickArrival s)))

/-- `RECEIVE(deadline)` (R105): `RX_START`, then the host waits; `resume` returns when `RX_STATE = IDLE` (log 10). -/
def execReceive (deadline : Word) (s : State) : Result :=
  whenHostFree s fun s =>
    andThen (startReceive deadline s) fun t => .next (hostWaits .receive t)

end Sys2Proof.Machine
end

