-- ==== Sys2Proof/Machine/HostLink.lean ====
section
/-! DEFINITION. The host's sequences over FPE (spec/43_host_link_session.md): `REQUEST`, `LOCALREAD`, the configure-radio
request, the identity bootstrap, and the return of a blocked call. -/

namespace Sys2Proof.Machine

/-- A host call ends by raising an error (R121, R136). -/
def raiseToHost (e : HostError) (s : State) : State := { s with host := .idle, answer := .raised e }

/-- Steps 2 to 5 after a successful `ENCODE` (R116 to R118): transmit exactly `TXBUF[0 .. TXLEN)`, discard, arm the framer
with `DEADLINE_DEFAULT`; the call then waits. -/
def transmitAndArm (call : Call) (s : State) : Result :=
  match readSpace s .txbuf 0 s.txLen.toNat with
  | .error f => .fault f
  | .ok bytes =>
    andThen (startReceive s.cfg.deadlineDefault (tDiscard (tWrite bytes s))) fun t =>
      .next (hostWaits call t)

/-- Steps 1 to 5 of `REQUEST` (R113 to R118) on behalf of `call`. -/
def startRequest (call : Call) (address : Word) (command : Byte) (payload : List Byte) (s : State) : Result :=
  if addressInRange s.cfg.aw address then
    whenIdle s fun s =>
      let t := encodeInto address command payload s
      if t.encOutcome = .ok then transmitAndArm call t else .next (raiseToHost (.status t.encOutcome) t)
  else .next (raiseToHost (.status .addressOutOfRange) s)

/-- The identity query as a request (R122), its operands not in the source (log 13). -/
def startIdentityQuery (call : Call) (s : State) : Result :=
  startRequest call Config.identityAddress Config.identityCommand Config.identityPayload s

/-- `REQUEST(address, command, payload)` (R113). -/
def execRequest (address : Word) (command : Byte) (payload : List Byte) (s : State) : Result :=
  whenHostFree s fun s => startRequest (.request command) address command payload s

/-- `LOCALREAD()` (R122). -/
def execLocalRead (s : State) : Result := whenHostFree s fun s => startIdentityQuery .localRead s

/-- `CMD.0xD6`: the configure-radio operation, a request with command 0xD6 (R63, R124, log 12). -/
def execCmdD6 (address : Word) (payload : List Byte) (s : State) : Result :=
  whenHostFree s fun s => startRequest (.configure payload) address 0xD6#8 payload s

/-- The host starts its session (R125, R152). -/
def startSession (s : State) : Result :=
  whenHostFree s fun s => startIdentityQuery (.bootstrap s.cfg.bootRetries) s

/-- The host's identity-changing operations without a row of their own: a request (R124, log 14). -/
def startIdentityStore (address : Word) (command : Byte) (payload : List Byte) (s : State) : Result :=
  whenHostFree s fun s => startRequest (.identityStore command payload) address command payload s

/-- The command the call sent; `none` for `RECEIVE`, which compares none. -/
def sentCommand : Call → Option Byte
  | .receive => none
  | .request command => some command
  | .localRead => some Config.identityCommand
  | .configure _ => some 0xD6#8
  | .identityStore command _ => some command
  | .bootstrap _ => some Config.identityCommand

/-- What a successful identity read caches (R122, R123, log 13). -/
def cacheIdentity (m : Message) (s : State) : State :=
  { s with
    identity := some
      { localAddress := Config.localAddressOf s.identity m.address m.payload
        networkId := Config.networkIdOf m.payload
        uniqueId := Config.uniqueIdOf m.payload } }

/-- What a successful identity-changing operation does to the cache (R124, log 14): it stays empty until an identity read has
succeeded (R152). -/
def updateIdentity (f : Identity → Identity) (s : State) : State := { s with identity := s.identity.map f }

/-- `Ok(payload, source address)` (R120). -/
def returnOk (m : Message) (s : State) : State :=
  { s with host := .idle, answer := .returned m.payload m.address }

/-- Steps 6 and 7 on a received message (R119, R120, R122, R124). -/
def finishCall (call : Call) (m : Message) (s : State) : State :=
  match call with
  | .receive => { s with host := .idle, answer := .message m }
  | .request _ => returnOk m s
  | .localRead => returnOk m (cacheIdentity m s)
  | .bootstrap _ => returnOk m (cacheIdentity m s)
  | .identityStore command sent =>
    returnOk m (updateIdentity (Config.identityAfterStore · command sent m.payload) s)
  | .configure requested =>
    if m.payload = requested then
      returnOk m (updateIdentity (Config.identityAfterConfigure · requested m.payload) s)
    else raiseToHost .echoMismatch s

/-- The bootstrap's retries left after one more failure: `none` when no retry is left (R125, D36). -/
def retryLeft : Option Nat → Option (Option Nat)
  | none => some none
  | some 0 => none
  | some (n + 1) => some (some n)

/-- The errors the bootstrap retries on (R125). -/
def retriedError (e : Status) : Bool := decide (e = .timeout) || decide (e = .checksumMismatch)

/-- A receive that did not end in `OK`: the call raises `RX_OUTCOME` (R105, R118); the bootstrap tries again (R125). -/
def failCall (call : Call) (s : State) : Result :=
  match call with
  | .bootstrap left =>
    match retriedError s.rxOutcome, retryLeft left with
    | true, some left' => startIdentityQuery (.bootstrap left') { s with host := .idle }
    | _, _ => .next (raiseToHost (.status s.rxOutcome) s)
  | _ => .next (raiseToHost (.status s.rxOutcome) s)

/-- The end of a blocked call (R105 "wait until RX_STATE = IDLE", then R113 steps 5 to 7). -/
def completeCall (call : Call) (s : State) : Result :=
  if s.rxOutcome = .ok then
    match hostReadMessage s with
    | .error f => .fault f
    | .ok m =>
      match sentCommand call with
      | none => .next (finishCall call m s)
      | some command =>
        if m.command = command then .next (finishCall call m s) else .next (raiseToHost .unexpectedResponse s)
  else failCall call s

/-- After every operation: a blocked call returns as soon as `RX_STATE = IDLE` (R105, log 10). -/
def resume (s : State) : Result :=
  match s.host, s.rxState with
  | .waiting call, .idle => completeCall call s
  | _, _ => .next s

end Sys2Proof.Machine
end

