-- ==== Sys2Proof/Machine/Transport.lean ====
section
/-! DEFINITION. The transport operations (spec/20_memory.md R37 to R40) and a frame on the line (spec/30_encoding.md
R49, R55; log 11). -/

namespace Sys2Proof.Machine

/-- `T.AVAIL()` (R37): no side effect. -/
def execTAvail (s : State) : Result := .next { s with answer := .available (tAvail s) }

/-- `T.READ()` (R38); refused on an empty queue (U14). -/
def execTRead (s : State) : Result :=
  match tRead s with
  | none => .refused .readOfEmptyQueue
  | some (b, t) => .next { t with answer := .byte b }

/-- `T.WRITE(s)` (R39). -/
def execTWrite (bytes : List Byte) (s : State) : Result := .next { tWrite bytes s with answer := .nothing }

/-- `T.DISCARD()` (R40). -/
def execTDiscard (s : State) : Result := .next { tDiscard s with answer := .nothing }

/-- `FRAME`: the module's frame arrives on the line, its bytes at the tail of `TQ` (R34, R49). -/
def execFrame (address : Word) (command : Byte) (payload : List Byte) (s : State) : Result :=
  .next (arrive (wireFrame address command payload) s)

/-- `FRAME.MIN`: the same with an empty payload (R55). -/
def execFrameMin (address : Word) (command : Byte) (s : State) : Result :=
  .next (arrive (wireFrame address command []) s)

end Sys2Proof.Machine
end

