-- ==== Sys2Proof/Machine/Dispatch.lean ====
section
/-! DEFINITION. One arm per instruction. -/

namespace Sys2Proof.Machine

def exec (i : Instr) (s : State) : Host.Outcome State Fault Refusal :=
  match i with
  -- spec/30_encoding.md R58
  | .noRequest => Sys2Proof.Machine.execNoRequest s
  | .crc16 bytes => Sys2Proof.Machine.execCrc16 bytes s
  | .encode address command payload => Sys2Proof.Machine.execEncode address command payload s
  | .rxStart deadline => Sys2Proof.Machine.execRxStart deadline s
  -- spec/42_frame_receiver.md R94, spec/41_frame_codec.md R89, spec/42_frame_receiver.md R105
  | .rxTick => Sys2Proof.Machine.execRxTick s
  | .decode => Sys2Proof.Machine.execDecode s
  | .receive deadline => Sys2Proof.Machine.execReceive deadline s
  -- spec/20_memory.md R37 to R40
  | .tAvail => Sys2Proof.Machine.execTAvail s
  | .tRead => Sys2Proof.Machine.execTRead s
  | .tWrite bytes => Sys2Proof.Machine.execTWrite bytes s
  | .tDiscard => Sys2Proof.Machine.execTDiscard s
  -- spec/43_host_link_session.md R113, R122
  | .request address command payload => Sys2Proof.Machine.execRequest address command payload s
  | .localRead => Sys2Proof.Machine.execLocalRead s
  -- spec/30_encoding.md R49, R55, R63
  | .frame address command payload => Sys2Proof.Machine.execFrame address command payload s
  | .frameMin address command => Sys2Proof.Machine.execFrameMin address command s
  | .cmdD6 address payload => Sys2Proof.Machine.execCmdD6 address payload s

end Sys2Proof.Machine
end

