-- ==== Sys2Proof/Machine/Fetch.lean ====
section
/-! DEFINITION. What one input does: a word is decoded and run, the reset input resets, the session start starts the
identity bootstrap, an identity store starts that operation of the host (log 5, 14, 20, 21). -/

namespace Sys2Proof.Machine

/-- A decoded instruction runs, and a blocked host call returns if `RX_STATE` is now `IDLE`. -/
def runInstr (i : Instr) (s : State) : Result := andThen (exec i s) resume

/-- A word on a port: decoded, then run; refused by name where it is no instruction. -/
def runWord (format : Format) (bytes : List Byte) (s : State) : Result :=
  match decode format bytes with
  | .ok i => runInstr i s
  | .error e => .refused (.undecodable e)

/-- One input. -/
def runInput (input : Input) (s : State) : Result :=
  match input with
  | .word format bytes => runWord format bytes s
  | .reset => .next (applyReset s)
  | .sessionStart => startSession s
  | .identityStore address command payload => startIdentityStore address command payload s

/-- The state an input is run in: the stimulus taken off the schedule, its bytes at the tail of `TQ` (R34). -/
def takeStimulus (st : Stimulus) (rest : List Stimulus) (s : State) : State :=
  arrive st.arrivals { s with schedule := rest }

end Sys2Proof.Machine
end

