-- ==== Sys2Proof/Machine/Step.lean ====
section
/-! DEFINITION. One step: the next stimulus of the schedule. With nothing presented the block waits (R150). -/

namespace Sys2Proof.Machine

/-- One step of the machine. -/
def step (s : State) : Host.Outcome State Fault Refusal :=
  match s.schedule with
  | [] => .next s
  | st :: rest => runInput st.input (takeStimulus st rest s)

/-- The word of spec/opcode_table.json presented next, before anything else that is scheduled (log 5, 7). -/
def State.withFetchWord (s : State) (nbits w : Nat) : State :=
  { s with
    schedule := { arrivals := [], input := .word (tableFormat nbits w) (tableBytes nbits w) } :: s.schedule }

end Sys2Proof.Machine
end

