-- ==== Sys2Proof/Safety.lean ====
section
/-! DEFINITION. The terms claims are stated in: the invariant of the machine, a safe step, runs of ticks, and one
tick's countdowns as one record. -/

namespace Sys2Proof.Machine

/-- `DEC_ADDR`, `DEC_CMD`, `DEC_PLEN` are what `decode(RXBUF[0..RX_I))` gives (R21 to R23). -/
def State.decodedOk (s : State) : Bool :=
  match decodeBuffer s with
  | .ok (.ok m) =>
    decide (s.decAddr = m.address) && decide (s.decCmd = m.command) && decide (s.decPlen.toNat = m.payload.length)
  | _ => false

/-- The invariant of the machine (R15 to R26, R127, R134). -/
structure State.Inv (s : State) : Prop where
  /-- Exactly `RXBUF[0..RX_I)` is defined (R15, R20). -/
  rxbuf_prefix : s.rxbuf.map Prod.fst = List.range s.rxI.toNat
  /-- `RX_I <= RXCAP` (R15). -/
  rxI_le : s.rxI.toNat ≤ s.cfg.rxCap
  /-- Exactly `TXBUF[0..TXLEN)` is defined (R24). -/
  txbuf_prefix : s.txbuf.map Prod.fst = List.range s.txLen.toNat
  /-- `TXLEN <= TXCAP` (R79). -/
  txLen_le : s.txLen.toNat ≤ s.cfg.txCap
  /-- While `RUN`, `1 <= RX_IB <= IB_WINDOW` (R16). -/
  run_budget : s.rxState = .run → 1 ≤ s.rxIb.toNat ∧ s.rxIb.toNat ≤ s.cfg.ibWindow.toNat
  /-- While `RUN`, no outcome is recorded (R19). -/
  run_outcome : s.rxState = .run → s.rxOutcome = .none
  /-- While `RUN` with no byte accumulated, the deadline has not expired (R102). -/
  run_deadline : s.rxState = .run → s.rxDl.toNat = 0 → 1 ≤ s.rxI.toNat
  /-- The overrun flag is set only with the buffer full (R18, R98). -/
  overrun_full : s.rxOvf = true → s.rxI.toNat = s.cfg.rxCap
  /-- The codes `RX_OUTCOME` can hold (R19). -/
  rxOutcome_legal : s.rxOutcome ≠ .addressOutOfRange ∧ s.rxOutcome ≠ .payloadTooLarge
  /-- The codes `ENC_OUTCOME` can hold (R26). -/
  encOutcome_legal : s.encOutcome = .none ∨ s.encOutcome = .ok ∨ s.encOutcome = .addressOutOfRange ∨
    s.encOutcome = .payloadTooLarge
  /-- After a receive that ended in `OK` the decoded registers are the frame's (R21 to R23, R165). -/
  ok_decoded : s.rxOutcome = .ok → s.decodedOk = true
  /-- After `Timeout`, `RX_I = 0` and `RX_DL = 0` (R134 (c)). -/
  timeout_empty : s.rxOutcome = .timeout → s.rxI.toNat = 0 ∧ s.rxDl.toNat = 0
  /-- After `RxOverrun`, `RX_OVF = 1` (R134 (d)). -/
  overrun_flag : s.rxOutcome = .rxOverrun → s.rxOvf = true
  /-- A frame stands in `TXBUF` exactly after an `ENCODE` that ended in `OK` (R25, R81). -/
  enc_ok : s.encOutcome = .ok → 5 ≤ s.txLen.toNat
  enc_not_ok : s.encOutcome ≠ .ok → s.txLen.toNat = 0
  /-- A blocked host call waits for a running receive (R105). -/
  host_waits : s.host = .idle ∨ s.rxState = .run

/-- The instructions that issue `RX_START` (R92, R105, R113, R122, R124). -/
def issuesRxStart : Instr → Bool
  | .rxStart _ | .receive _ | .request _ _ _ | .localRead | .cmdD6 _ _ => true
  | .noRequest | .crc16 _ | .encode _ _ _ | .rxTick | .decode | .tAvail | .tRead | .tWrite _ | .tDiscard
  | .frame _ _ _ | .frameMin _ _ => false

/-- The instructions that issue `ENCODE` (R75, R113, R122, R124). -/
def issuesEncode : Instr → Bool
  | .encode _ _ _ | .request _ _ _ | .localRead | .cmdD6 _ _ => true
  | .noRequest | .crc16 _ | .rxStart _ | .rxTick | .decode | .receive _ | .tAvail | .tRead | .tWrite _ | .tDiscard
  | .frame _ _ _ | .frameMin _ _ => false

/-- The host's own stimuli, each of which issues a whole request (R124, R125). -/
def startsHostCall : Input → Bool
  | .sessionStart | .identityStore _ _ _ => true
  | .word _ _ | .reset => false

/-- A state from which the next step is no fault. -/
def State.Safe (s : State) : Prop := ∀ f : Fault, step s ≠ .fault f

/-- `n` ticks with no byte arriving between them, stopping at the first fault or refusal. -/
def ticks : Nat → State → Result
  | 0, s => .next s
  | n + 1, s => andThen (exec .rxTick s) (ticks n)

/-- `n` steps of the machine. -/
def steps (n : Nat) (s : State) : Result := Host.Core.run Sys2Proof.core n s

/-- `n` tick strobes with no byte arriving, as a schedule. -/
def silentTicks (n : Nat) : List Stimulus := tickStream (List.replicate n none)

/-- An instruction as a stimulus, with no byte arriving. -/
def present (i : Instr) : Stimulus := { arrivals := [], input := .word (encode i).1 (encode i).2 }

/-- `RX_I` after step 1 of a tick (R96, R98). -/
def State.countAfterPoll (s : State) : Word :=
  if s.tq ≠ [] ∧ s.rxI.toNat < s.cfg.rxCap then s.rxI + 1#16 else s.rxI

/-- `RX_IB` after step 1 of a tick (R96, R98). -/
def State.budgetAfterPoll (s : State) : Word := if s.tq = [] then s.rxIb else s.cfg.ibWindow

/-- `RXBUF` after step 1 of a tick (R96, R98). -/
def State.bufferAfterPoll (s : State) : Memory :=
  match s.tq with
  | [] => s.rxbuf
  | v :: _ => if s.rxI.toNat < s.cfg.rxCap then Memory.write s.rxbuf s.rxI.toNat v else s.rxbuf

/-- The state after steps 1 to 3 of a tick, one expression per register (R96 to R100). -/
def State.afterCountdowns (s : State) : State :=
  { s with
    tq := s.tq.tail
    rxbuf := s.bufferAfterPoll
    rxI := s.countAfterPoll
    rxOvf := s.rxOvf || (decide (s.tq ≠ []) && decide (s.cfg.rxCap ≤ s.rxI.toNat))
    rxIb := if s.countAfterPoll = 0#16 then s.budgetAfterPoll else s.budgetAfterPoll - 1#16
    rxDl := if s.rxDl = 0#16 then 0#16 else s.rxDl - 1#16 }

end Sys2Proof.Machine
end

