-- ==== Sys2Proof/Certificates/Slice0/Obligations.lean ====
section
/-! DEFINITION. The statements for the provers. Each docstring names the rule of spec/ it formalises. `t.decAddr`,
`t.decCmd`, `t.decPlen`, `t.respOutcome` and `t.freeCount` in a frame mean: these may change, to values the statement leaves
open. The fields `answer` and `respOutcome` are the response port as the model holds it (log 9, log 27), so a statement that
fixes one is derived; what each statement rests on
stands in OBLIGATIONS.json. -/

open Sys2Proof Sys2Proof.Machine

/-! ## The request port and the CRC16 unit -/

/-- R58, row `NONE`: no request is presented and the block does nothing. -/
def Obligations.NoRequestChangesNothing : Prop :=
  ∀ s : State, exec .noRequest s = .next s

/-- R68 to R72: the seed, the absorption of the next byte in the low eight bits, exactly eight bit iterations that test bit
0 before the shift, no final step. -/
def Obligations.Crc16FollowsTheAlgorithm : Prop :=
  ∀ shift : Word → Word,
    (∀ a : Word, shift a = if a.getLsbD 0 = true then (a >>> 1) ^^^ 0xA001#16 else a >>> 1) →
    crc16 [] = 0xC181#16 ∧
    ∀ (bytes : List Byte) (b : Byte), crc16 (bytes ++ [b]) = shift^[8] (crc16 bytes ^^^ b.setWidth 16)

/-- R67, R58: `CRC16` answers the checksum and a code that is no error (which of the two such codes is log 27), and writes
nothing else. -/
def Obligations.Crc16AnswersAndWritesNothing : Prop :=
  ∀ (bytes : List Byte) (s : State), s.rxState = .idle →
    ∃ t : State, exec (.crc16 bytes) s = .next t ∧
      t = { s with answer := .crc (crc16 bytes), respOutcome := t.respOutcome, freeCount := t.freeCount } ∧
      (t.respOutcome = .none ∨ t.respOutcome = .ok)

/-- R73: the CRC of a sequence followed by its own CRC, low byte first, is zero. -/
def Obligations.CrcResidueIsZero : Prop :=
  ∀ m : List Byte, crc16 (m ++ [(crc16 m).setWidth 8, (crc16 m >>> 8).setWidth 8]) = 0x0000#16

/-- R74: for sequences of one length, the XOR of two CRCs depends only on the bytewise XOR of the sequences. -/
def Obligations.CrcDifferenceDependsOnByteDifference : Prop :=
  ∀ a b a' b' : List Byte, a.length = b.length → a'.length = b'.length →
    List.zipWith (· ^^^ ·) a b = List.zipWith (· ^^^ ·) a' b' →
    crc16 a ^^^ crc16 b = crc16 a' ^^^ crc16 b'

/-- R74: changing the bits of exactly one byte always changes the CRC. -/
def Obligations.OneChangedByteChangesTheCrc : Prop :=
  ∀ (bytes : List Byte) (k : Nat) (v : Byte), (h : k < bytes.length) → bytes[k] ≠ v →
    crc16 (bytes.set k v) ≠ crc16 bytes

/-! ## The CODEC unit -/

/-- R33: a successful `ENCODE` leaves the frame of R49 in `TXBUF`, byte by byte, the CRC over exactly the first `n + 3`
bytes; only `TXBUF`, `TXLEN`, `ENC_OUTCOME` and the response port change. -/
def Obligations.EncodeWritesTheFrame : Prop :=
  ∀ (s : State) (address : Word) (command : Byte) (payload : List Byte),
    s.rxState = .idle → address.toNat ≤ 2 ^ s.cfg.aw.bits - 1 → payload.length < s.cfg.maxPayload →
    let body : List Byte :=
      [address.setWidth 8, ((address >>> 8) &&& BitVec.ofNat 16 ((2 ^ s.cfg.aw.bits - 1) >>> 8)).setWidth 8,
        command] ++ payload
    let f : List Byte := body ++ [(crc16 body).setWidth 8, (crc16 body >>> 8).setWidth 8]
    f.length = payload.length + 5 ∧
    ∃ t : State, exec (.encode address command payload) s = .next t ∧
      t = { s with txbuf := t.txbuf, txLen := t.txLen, encOutcome := .ok, answer := t.answer,
                   respOutcome := t.respOutcome } ∧
      t.txLen.toNat = payload.length + 5 ∧ ∀ k : Nat, Memory.read t.txbuf k = f[k]?

/-- R76, R77: the two conditions under which `ENCODE` fails, the address compared as the full 16-bit operand. -/
def Obligations.EncodeFailsExactlyOnIllegalOperands : Prop :=
  ∀ (s : State) (address : Word) (command : Byte) (payload : List Byte), s.rxState = .idle →
    ∃ t : State, exec (.encode address command payload) s = .next t ∧
      (payload.length < s.cfg.maxPayload →
        (t.encOutcome = .addressOutOfRange ↔ 2 ^ s.cfg.aw.bits - 1 < address.toNat)) ∧
      (address.toNat ≤ 2 ^ s.cfg.aw.bits - 1 →
        (t.encOutcome = .payloadTooLarge ↔ s.cfg.maxPayload ≤ payload.length))

/-- R76, R77, R78, R138: the address check on the full operand first, then the payload check (equal to the maximum is
rejected); the error leaves `TXLEN = 0`, `TXBUF` undefined, and changes nothing else (decisions D16, D17). With both
passed the response port carries the frame. Its 3-bit code is the outcome (R58; the two fields that hold the port are log
9 and log 27). -/
def Obligations.EncodeRejectsInOrder : Prop :=
  ∀ (s : State) (address : Word) (command : Byte) (payload : List Byte), s.rxState = .idle →
    (2 ^ s.cfg.aw.bits - 1 < address.toNat →
      exec (.encode address command payload) s =
        .next { s with txbuf := [], txLen := 0#16, encOutcome := .addressOutOfRange,
                       answer := .raised (.status .addressOutOfRange), respOutcome := .addressOutOfRange }) ∧
    (address.toNat ≤ 2 ^ s.cfg.aw.bits - 1 → s.cfg.maxPayload ≤ payload.length →
      exec (.encode address command payload) s =
        .next { s with txbuf := [], txLen := 0#16, encOutcome := .payloadTooLarge,
                       answer := .raised (.status .payloadTooLarge), respOutcome := .payloadTooLarge }) ∧
    (address.toNat ≤ 2 ^ s.cfg.aw.bits - 1 → payload.length < s.cfg.maxPayload →
      ∃ (t : State) (f : List Byte), exec (.encode address command payload) s = .next t ∧
        encodeFrame s.cfg address command payload = .ok f ∧ t.answer = .encoded f ∧
        t.respOutcome = .ok)

/-- R84 to R87, R139: the length check, then the CRC check, then the three fields. -/
def Obligations.DecodeChecksThenExtracts : Prop :=
  ∀ (aw : AddrWidth) (b : List Byte),
    (b.length < 5 → decodeFrame aw b = .error .frameTooShort) ∧
    (5 ≤ b.length →
      crc16 (b.take (b.length - 2)) ≠ (b.getD (b.length - 1) 0 ++ b.getD (b.length - 2) 0 : BitVec (8 + 8)) →
      decodeFrame aw b = .error .checksumMismatch) ∧
    (5 ≤ b.length →
      crc16 (b.take (b.length - 2)) = (b.getD (b.length - 1) 0 ++ b.getD (b.length - 2) 0 : BitVec (8 + 8)) →
      decodeFrame aw b = .ok
        { address := (b.getD 1 0 ++ b.getD 0 0 : BitVec (8 + 8)) &&& BitVec.ofNat 16 (2 ^ aw.bits - 1)
          command := b.getD 2 0
          payload := (b.take (b.length - 2)).drop 3 })

/-- R62: the upper bits of `address_hi` are zero on transmit and ignored on receive, where the CRC covers them. -/
def Obligations.UpperAddressBitsZeroThenIgnored : Prop :=
  (∀ (c : Config) (address : Word) (command : Byte) (payload f : List Byte),
    encodeFrame c address command payload = .ok f → (f.getD 1 0).toNat < 2 ^ (c.aw.bits - 8)) ∧
  (∀ (aw : AddrWidth) (raw : Word) (command : Byte) (payload : List Byte),
    decodeFrame aw (wireFrame raw command payload) =
      .ok { address := raw &&& BitVec.ofNat 16 (2 ^ aw.bits - 1), command := command, payload := payload })

/-- R90: decode undoes encode; the converse does not hold; one changed byte of an encoded frame is a
`ChecksumMismatch`; more than one changed byte can decode. -/
def Obligations.FrameRoundTripAndCorruption : Prop :=
  (∀ (c : Config) (address : Word) (command : Byte) (payload : List Byte),
    address.toNat ≤ 2 ^ c.aw.bits - 1 → payload.length < c.maxPayload →
    ∃ f : List Byte, encodeFrame c address command payload = .ok f ∧
      decodeFrame c.aw f = .ok { address := address, command := command, payload := payload } ∧
      ∀ (k : Nat) (v : Byte), (h : k < f.length) → f[k] ≠ v →
        decodeFrame c.aw (f.set k v) = .error .checksumMismatch) ∧
  (∃ (c : Config) (b f : List Byte) (m : Message), decodeFrame c.aw b = .ok m ∧
    encodeFrame c m.address m.command m.payload = .ok f ∧ f ≠ b) ∧
  (∃ (c : Config) (f b : List Byte) (m : Message), encodeFrame c 0#16 0#8 [] = .ok f ∧
    b.length = f.length ∧ b ≠ f ∧ decodeFrame c.aw b = .ok m)

/-- R83, R89, and log 15 (presented on its own): `DECODE` on `RXBUF[0..RX_I)` writes the three registers on
success and leaves them open on an error; it changes neither `RXBUF`, `RX_I`, a transmit register nor the transport. -/
def Obligations.DecodeBindsRegisters : Prop :=
  ∀ s : State, s.Inv →
    ∃ (t : State) (b : List Byte), exec .decode s = .next t ∧
      Memory.readRange s.rxbuf 0 s.rxI.toNat = .ok b ∧ b.length = s.rxI.toNat ∧
      (∀ m : Message, decodeFrame s.cfg.aw b = .ok m →
        t = { s with decAddr := m.address, decCmd := m.command, decPlen := s.rxI - 5#16, answer := .message m }) ∧
      (∀ e : Status, decodeFrame s.cfg.aw b = .error e →
        t = { s with decAddr := t.decAddr, decCmd := t.decCmd, decPlen := t.decPlen, freeCount := t.freeCount,
                     answer := .raised (.status e) })

/-- R23, R105, R120, U10: the host reads the decoded message exactly when `RX_OUTCOME = OK`. -/
def Obligations.MessageReadableExactlyWhenOk : Prop :=
  ∀ s : State, s.Inv →
    (s.rxOutcome = .ok → ∃ (m : Message) (b : List Byte), hostReadMessage s = .ok m ∧
      Memory.readRange s.rxbuf 0 s.rxI.toNat = .ok b ∧ decodeFrame s.cfg.aw b = .ok m ∧
      s.decAddr = m.address ∧ s.decCmd = m.command ∧ s.decPlen.toNat = m.payload.length ∧
      s.rxI.toNat = m.payload.length + 5) ∧
    (s.rxOutcome ≠ .ok → hostReadMessage s = .error .undefinedDecode)

/-! ## The framer -/

/-- R92: exactly the registers of the pseudocode; all of `RXBUF` becomes undefined (R20), `TQ` is not touched. The
code answered is no error (R58, log 27). -/
def Obligations.RxStartArmsTheFramer : Prop :=
  ∀ (s : State) (deadline : Word), s.rxState = .idle → 1 ≤ deadline.toNat →
    ∃ t : State, exec (.rxStart deadline) s = .next t ∧
      t = { s with rxI := 0#16, rxIb := s.cfg.ibWindow, rxDl := deadline, rxOvf := false, rxOutcome := .none,
                   rxbuf := [], rxState := .run, answer := .nothing, respOutcome := t.respOutcome,
                   decAddr := t.decAddr, decCmd := t.decCmd, decPlen := t.decPlen, freeCount := t.freeCount } ∧
      (t.respOutcome = .none ∨ t.respOutcome = .ok)

/-- R158: a request while `RX_STATE = RUN` is refused, whatever its operands. -/
def Obligations.RequestsRefusedWhileRunning : Prop :=
  ∀ (s : State) (bytes : List Byte) (address : Word) (command : Byte) (deadline : Word), s.rxState = .run →
    exec (.crc16 bytes) s = .refused .requestWhileRunning ∧
    exec (.encode address command bytes) s = .refused .requestWhileRunning ∧
    exec (.rxStart deadline) s = .refused .requestWhileRunning

/-- R65, U9: `deadline = 0` is refused by `RX_START` and by `RECEIVE`. -/
def Obligations.ZeroDeadlineRefused : Prop :=
  ∀ s : State, s.rxState = .idle →
    exec (.rxStart 0#16) s = .refused .illegalDeadline ∧
    (s.host = .idle → exec (.receive 0#16) s = .refused .illegalDeadline)

/-- R106: a tick in `IDLE` has no effect. -/
def Obligations.IdleTickChangesNothing : Prop :=
  ∀ s : State, s.rxState = .idle → exec .rxTick s = .next s

/-- R96, R97, R99, R100: a tick that does not end the receive leaves exactly the countdowns of steps 1 to 3; a byte is
stored at `RXBUF[RX_I]` and no other byte changes. -/
def Obligations.TickCountsDown : Prop :=
  ∀ s : State, s.rxState = .run → s.afterCountdowns.rxIb ≠ 0#16 →
    ¬ (s.afterCountdowns.rxDl = 0#16 ∧ s.afterCountdowns.rxI = 0#16) →
    exec .rxTick s = .next s.afterCountdowns ∧
    (∀ k : Nat, k ≠ s.rxI.toNat → Memory.read s.afterCountdowns.rxbuf k = Memory.read s.rxbuf k) ∧
    (∀ (v : Byte) (rest : List Byte), s.tq = v :: rest → s.rxI.toNat < s.cfg.rxCap →
      Memory.read s.afterCountdowns.rxbuf s.rxI.toNat = some v)

/-- R99, R100: on every running tick, the ending one included, the inter-byte budget is decremented when a byte has been
accumulated, after its reload if a byte arrived, and does not move otherwise; the deadline is decremented unless zero. -/
def Obligations.EveryTickMovesTheBudgets : Prop :=
  ∀ s : State, s.Inv → s.rxState = .run →
    ∃ t : State, exec .rxTick s = .next t ∧
      (t.rxI = 0#16 → t.rxIb = s.rxIb) ∧
      (1 ≤ t.rxI.toNat → t.rxIb = (if s.tq = [] then s.rxIb else s.cfg.ibWindow) - 1#16) ∧
      t.rxDl.toNat = s.rxDl.toNat - 1

/-- R98: a byte offered with the buffer full is read and dropped, `RX_OVF` is set, the inter-byte budget is reloaded (and
counted down once, R99), and nothing is stored. -/
def Obligations.FullBufferDropsTheByte : Prop :=
  ∀ (s : State) (v : Byte) (rest : List Byte), s.rxState = .run → s.tq = v :: rest → s.rxI.toNat = s.cfg.rxCap →
    2 ≤ s.cfg.ibWindow.toNat →
    exec .rxTick s =
      .next { s with tq := rest, rxOvf := true, rxIb := s.cfg.ibWindow - 1#16,
                     rxDl := if s.rxDl = 0#16 then 0#16 else s.rxDl - 1#16 }

/-- R104: silence ends the receive in the same tick; `RxOverrun` without the decoder, else the decoder's outcome, with
fewer than 5 bytes `FrameTooShort`; on `OK` the decoded registers are the frame's. -/
def Obligations.SilenceEndsTheReceive : Prop :=
  ∀ s : State, s.Inv → s.rxState = .run → s.afterCountdowns.rxIb = 0#16 →
    1 ≤ s.afterCountdowns.rxI.toNat ∧
    ∃ (t : State) (b : List Byte), exec .rxTick s = .next t ∧
      Memory.readRange s.afterCountdowns.rxbuf 0 s.afterCountdowns.rxI.toNat = .ok b ∧
      t = { s.afterCountdowns with rxState := .idle, rxOutcome := t.rxOutcome, decAddr := t.decAddr,
                                   decCmd := t.decCmd, decPlen := t.decPlen, freeCount := t.freeCount } ∧
      (s.afterCountdowns.rxOvf = true → t.rxOutcome = .rxOverrun) ∧
      (s.afterCountdowns.rxOvf = false → s.afterCountdowns.rxI.toNat < 5 → t.rxOutcome = .frameTooShort) ∧
      (s.afterCountdowns.rxOvf = false → ∀ e : Status, decodeFrame s.cfg.aw b = .error e → t.rxOutcome = e) ∧
      (s.afterCountdowns.rxOvf = false → ∀ m : Message, decodeFrame s.cfg.aw b = .ok m →
        t.rxOutcome = .ok ∧ t.decAddr = m.address ∧ t.decCmd = m.command ∧
        t.decPlen = s.afterCountdowns.rxI - 5#16)

/-- R132 and the Empty test of R102: the deadline expired with no byte accumulated ends the receive with `Timeout`. -/
def Obligations.EmptyDeadlineIsTimeout : Prop :=
  ∀ s : State, s.rxState = .run → s.afterCountdowns.rxIb ≠ 0#16 → s.afterCountdowns.rxDl = 0#16 →
    s.afterCountdowns.rxI = 0#16 →
    ∃ t : State, exec .rxTick s = .next t ∧
      t = { s.afterCountdowns with rxState := .idle, rxOutcome := .timeout, decAddr := t.decAddr,
                                   decCmd := t.decCmd, decPlen := t.decPlen, freeCount := t.freeCount }

/-- R103: once a byte is accumulated, the deadline neither ends the receive nor gives `Timeout`, on this tick or any
later one. -/
def Obligations.DeadlineNeverCutsAReceiveWithBytes : Prop :=
  ∀ s : State, s.Inv → s.rxState = .run → (1 ≤ s.rxI.toNat ∨ s.tq ≠ []) →
    ∃ t : State, exec .rxTick s = .next t ∧ t.rxOutcome ≠ .timeout ∧ 1 ≤ t.rxI.toNat ∧
      (t.rxState = .run ↔ s.afterCountdowns.rxIb ≠ 0#16)

/-- R97: a running tick takes exactly one byte when `TQ` holds one, and the rest stay, in order. -/
def Obligations.AtMostOneByteATick : Prop :=
  ∀ s : State, s.Inv → s.rxState = .run → ∃ t : State, exec .rxTick s = .next t ∧ t.tq = s.tq.tail

/-- R102: with no byte available, the receive ends at the end of tick `deadline`, with `Timeout`, and not before. -/
def Obligations.TimeoutExactlyAtTheDeadline : Prop :=
  ∀ (s : State) (deadline : Word), s.rxState = .idle → 1 ≤ deadline.toNat → s.tq = [] →
    ∀ k : Nat, ∃ t : State, andThen (exec (.rxStart deadline) s) (ticks k) = .next t ∧
      (t.rxState = .run ↔ k < deadline.toNat) ∧
      (deadline.toNat ≤ k → t.rxOutcome = .timeout ∧ t.rxI = 0#16 ∧ t.rxDl = 0#16 ∧ t.rxIb = s.cfg.ibWindow)

/-- R108: after a byte is read and with none after it, the receive runs for `IB_WINDOW - 1` silent ticks and no longer: a
byte `d` ticks later still belongs to it exactly when `d <= IB_WINDOW - 1`; with `IB_WINDOW = 1` it ends on the tick of
its first byte with `RX_I = 1`. -/
def Obligations.SilenceWindowIsExact : Prop :=
  ∀ (s : State) (v : Byte), s.Inv → s.rxState = .run → s.tq = [v] →
    (∀ d : Nat, 1 ≤ d → ∃ t : State, ticks d s = .next t ∧ (t.rxState = .run ↔ d < s.cfg.ibWindow.toNat)) ∧
    (s.cfg.ibWindow = 1#16 → s.rxI = 0#16 → ∃ t : State, ticks 1 s = .next t ∧ t.rxState = .idle ∧ t.rxI = 1#16)

/-- R109: a byte on the last deadline tick wins; without it the receive ends on that tick with `Timeout`. -/
def Obligations.ByteOnTheLastDeadlineTickWins : Prop :=
  ∀ s : State, s.Inv → s.rxState = .run → s.rxI = 0#16 → s.rxDl = 1#16 →
    (s.tq ≠ [] → ∃ t : State, exec .rxTick s = .next t ∧ t.rxI = 1#16 ∧ t.rxDl = 0#16 ∧ t.rxOutcome ≠ .timeout ∧
      (2 ≤ s.cfg.ibWindow.toNat → t.rxState = .run)) ∧
    (s.tq = [] → ∃ t : State, exec .rxTick s = .next t ∧ t.rxState = .idle ∧ t.rxOutcome = .timeout)

/-- R111, R161: while bytes keep coming the receive does not end, whatever the deadline and the buffer. -/
def Obligations.BytesKeepAReceiveRunning : Prop :=
  ∀ (s : State) (k : Nat), s.Inv → s.rxState = .run → 2 ≤ s.cfg.ibWindow.toNat → k ≤ s.tq.length →
    ∃ t : State, ticks k s = .next t ∧ t.rxState = .run ∧ t.tq = s.tq.drop k

/-- R164, R104: a whole frame standing in `TQ` is received one byte a tick, and decoded after exactly
`L + IB_WINDOW - 1` ticks. -/
def Obligations.WholeFrameIsReceived : Prop :=
  ∀ (s : State) (deadline raw : Word) (command : Byte) (payload : List Byte),
    s.rxState = .idle → 1 ≤ deadline.toNat → 2 ≤ s.cfg.ibWindow.toNat →
    s.tq = wireFrame raw command payload → payload.length + 5 ≤ s.cfg.rxCap →
    ∀ k : Nat, ∃ t : State, andThen (exec (.rxStart deadline) s) (ticks k) = .next t ∧
      (t.rxState = .run ↔ k < payload.length + 5 + s.cfg.ibWindow.toNat - 1) ∧
      (payload.length + 5 + s.cfg.ibWindow.toNat - 1 ≤ k →
        t.rxOutcome = .ok ∧ t.rxI.toNat = payload.length + 5 ∧ t.tq = [] ∧
        Memory.readRange t.rxbuf 0 t.rxI.toNat = .ok (wireFrame raw command payload) ∧
        hostReadMessage t =
          .ok { address := raw &&& BitVec.ofNat 16 (2 ^ s.cfg.aw.bits - 1), command := command, payload := payload })

/-- R112: `RX_START` and `RX_TICK` neither read nor write the transmit side, send nothing, and take at most the head byte of
`TQ`. -/
def Obligations.FramerIgnoresTheTransmitSide : Prop :=
  ∀ (i : Instr) (s : State) (m : Memory) (len : Word) (o : Status) (out : List Byte),
    (i = .rxTick ∨ ∃ deadline : Word, i = .rxStart deadline) →
    exec i { s with txbuf := m, txLen := len, encOutcome := o, lineOut := out } =
      andThen (exec i s) (fun t => .next { t with txbuf := m, txLen := len, encOutcome := o, lineOut := out }) ∧
    ∀ t : State, exec i s = .next t → t.tq = s.tq ∨ t.tq = s.tq.tail

/-- R105: `RECEIVE` does what `RX_START` does and the host waits (log 10); nothing else changes. -/
def Obligations.ReceiveArmsAndWaits : Prop :=
  ∀ (s : State) (deadline : Word), s.rxState = .idle → s.host = .idle → 1 ≤ deadline.toNat →
    ∃ t : State, exec (.receive deadline) s = .next t ∧
      t = { s with rxI := 0#16, rxIb := s.cfg.ibWindow, rxDl := deadline, rxOvf := false, rxOutcome := .none,
                   rxbuf := [], rxState := .run, answer := .nothing, respOutcome := t.respOutcome,
                   host := .waiting .receive,
                   decAddr := t.decAddr, decCmd := t.decCmd, decPlen := t.decPlen, freeCount := t.freeCount }

/-! ## The transport -/

/-- R37 (the answer stands in `answer`: log 9): `T.AVAIL` answers true exactly when `TQ` is not empty, has no side
effect, and a second call with nothing between answers the same. -/
def Obligations.TAvailAnswersNonEmpty : Prop :=
  ∀ s : State, ∃ b : Bool, (b = true ↔ s.tq ≠ []) ∧
    exec .tAvail s = .next { s with answer := .available b } ∧
    andThen (exec .tAvail s) (exec .tAvail) = exec .tAvail s

/-- R38, U14: `T.READ` takes the head byte; on an empty queue it is refused. -/
def Obligations.TReadTakesTheHead : Prop :=
  ∀ (s : State) (v : Byte) (rest : List Byte),
    (s.tq = v :: rest → exec .tRead s = .next { s with tq := rest, answer := .byte v }) ∧
    (s.tq = [] → exec .tRead s = .refused .readOfEmptyQueue)

/-- R39, R40: `T.WRITE` appends its bytes to the line, first byte first; `T.DISCARD` empties `TQ`; nothing else changes
but the response port. -/
def Obligations.WriteSendsAndDiscardEmpties : Prop :=
  ∀ (s : State) (bytes : List Byte),
    exec (.tWrite bytes) s = .next { s with lineOut := s.lineOut ++ bytes, answer := .nothing } ∧
    exec .tDiscard s = .next { s with tq := [], answer := .nothing }

/-- R34, R49, R55: a frame that arrives on the line is appended to `TQ` as its wire bytes. The reading of the rows FRAME
and FRAME.MIN as arrivals is the model's (log 11). -/
def Obligations.FrameArrivesAtTheTail : Prop :=
  ∀ (s : State) (address : Word) (command : Byte) (payload : List Byte),
    let wire (p : List Byte) : List Byte :=
      [address.setWidth 8, (address >>> 8).setWidth 8, command] ++ p ++
        [(crc16 ([address.setWidth 8, (address >>> 8).setWidth 8, command] ++ p)).setWidth 8,
          (crc16 ([address.setWidth 8, (address >>> 8).setWidth 8, command] ++ p) >>> 8).setWidth 8]
    exec (.frame address command payload) s = .next { s with tq := s.tq ++ wire payload } ∧
    exec (.frameMin address command) s = .next { s with tq := s.tq ++ wire [] }

/-! ## The host's sequences -/

/-- R114: an address out of range raises `AddressOutOfRange` with nothing written to `TXBUF` and no transport operation,
for `REQUEST` and for the configure-radio request (log 12). -/
def Obligations.RequestAddressCheckedBeforeIo : Prop :=
  ∀ (s : State) (address : Word) (command : Byte) (payload : List Byte), s.host = .idle →
    2 ^ s.cfg.aw.bits - 1 < address.toNat →
    exec (.request address command payload) s =
      .next { s with answer := .raised (.status .addressOutOfRange) } ∧
    exec (.cmdD6 address payload) s = .next { s with answer := .raised (.status .addressOutOfRange) }

/-- R115: an encode error ends the request with nothing transmitted and the transport not touched. The clause about the
configure-radio request rests on log 12. -/
def Obligations.RequestEncodeErrorSendsNothing : Prop :=
  ∀ (s : State) (address : Word) (command : Byte) (payload : List Byte), s.host = .idle → s.rxState = .idle →
    address.toNat ≤ 2 ^ s.cfg.aw.bits - 1 → s.cfg.maxPayload ≤ payload.length →
    let t : State := { s with txbuf := [], txLen := 0#16, encOutcome := .payloadTooLarge,
                              answer := .raised (.status .payloadTooLarge), respOutcome := .payloadTooLarge }
    exec (.request address command payload) s = .next t ∧ exec (.cmdD6 address payload) s = .next t

/-- R116, R117, R118: encode, transmit exactly the frame, then discard, then arm with `DEADLINE_DEFAULT`; the host waits.
`REQUEST`, and the configure-radio request with command 0xD6 (log 12). -/
def Obligations.RequestTransmitsDiscardsAndWaits : Prop :=
  ∀ (s : State) (address : Word) (command : Byte) (payload : List Byte) (i : Instr) (call : Call),
    (i = .request address command payload ∧ call = .request command ∨
      command = 0xD6#8 ∧ i = .cmdD6 address payload ∧ call = .configure payload) →
    s.host = .idle → s.rxState = .idle → address.toNat ≤ 2 ^ s.cfg.aw.bits - 1 →
    payload.length < s.cfg.maxPayload →
    ∃ (t : State) (f : List Byte), encodeFrame s.cfg address command payload = .ok f ∧ exec i s = .next t ∧
      t = { s with txbuf := t.txbuf, txLen := BitVec.ofNat 16 f.length, encOutcome := .ok,
                   lineOut := s.lineOut ++ f, tq := [], rxI := 0#16, rxIb := s.cfg.ibWindow,
                   rxDl := s.cfg.deadlineDefault, rxOvf := false, rxOutcome := .none, rxbuf := [], rxState := .run,
                   answer := .nothing, respOutcome := t.respOutcome, host := .waiting call,
                   decAddr := t.decAddr, decCmd := t.decCmd, decPlen := t.decPlen, freeCount := t.freeCount } ∧
      ∀ k : Nat, Memory.read t.txbuf k = f[k]?

/-- R122: `LOCALREAD` is a request with the identity query's command, address and payload, which the source does not
give (log 13): it completes whatever they are. -/
def Obligations.LocalReadIsARequest : Prop :=
  ∀ s : State, s.host = .idle → s.rxState = .idle →
    ∃ t : State, exec .localRead s = .next t ∧
      (2 ^ s.cfg.aw.bits - 1 < Config.identityAddress.toNat →
        t = { s with answer := .raised (.status .addressOutOfRange) }) ∧
      (Config.identityAddress.toNat ≤ 2 ^ s.cfg.aw.bits - 1 → s.cfg.maxPayload ≤ Config.identityPayload.length →
        t = { s with txbuf := [], txLen := 0#16, encOutcome := .payloadTooLarge,
                     answer := .raised (.status .payloadTooLarge), respOutcome := .payloadTooLarge }) ∧
      (Config.identityAddress.toNat ≤ 2 ^ s.cfg.aw.bits - 1 → Config.identityPayload.length < s.cfg.maxPayload →
        ∃ f : List Byte,
          encodeFrame s.cfg Config.identityAddress Config.identityCommand Config.identityPayload = .ok f ∧
          t = { s with txbuf := t.txbuf, txLen := BitVec.ofNat 16 f.length, encOutcome := .ok,
                       lineOut := s.lineOut ++ f, tq := [], rxI := 0#16, rxIb := s.cfg.ibWindow,
                       rxDl := s.cfg.deadlineDefault, rxOvf := false, rxOutcome := .none, rxbuf := [],
                       rxState := .run, answer := .nothing, respOutcome := t.respOutcome,
                       host := .waiting .localRead, decAddr := t.decAddr, decCmd := t.decCmd,
                       decPlen := t.decPlen, freeCount := t.freeCount } ∧
          ∀ k : Nat, Memory.read t.txbuf k = f[k]?)

/-- R124, R125, log 14, log 21: the session start and the identity stores are requests of the host: with
operands in range the step transmits the frame, empties `TQ`, arms the framer, and the call waits. -/
def Obligations.SessionAndStoreStartRequests : Prop :=
  ∀ (s : State) (arrivals : List Byte) (rest : List Stimulus) (input : Input) (call : Call) (address : Word)
    (command : Byte) (payload : List Byte),
    s.schedule = { arrivals := arrivals, input := input } :: rest →
    (input = .identityStore address command payload ∧ call = .identityStore command payload ∨
      input = .sessionStart ∧ call = .bootstrap s.cfg.bootRetries ∧ address = Config.identityAddress ∧
        command = Config.identityCommand ∧ payload = Config.identityPayload) →
    s.host = .idle → s.rxState = .idle → address.toNat ≤ 2 ^ s.cfg.aw.bits - 1 →
    payload.length < s.cfg.maxPayload →
    ∃ (t : State) (f : List Byte), step s = .next t ∧ encodeFrame s.cfg address command payload = .ok f ∧
      t.lineOut = s.lineOut ++ f ∧ t.tq = [] ∧ t.rxState = .run ∧ t.rxDl = s.cfg.deadlineDefault ∧
      t.host = .waiting call ∧ t.identity = s.identity ∧ t.schedule = rest

/-- R119, R120, R122, R124, R125: a call whose receive ended in `OK` compares the command, then returns payload and source
address; `LOCALREAD` and the bootstrap fill the identity cache, the identity stores update it but leave it empty where no
read has filled it (R152), the configure-radio request compares the echo; `RECEIVE` returns the message. When the call
returns is log 10; the configure-radio request and `echoMismatch` are log 12, the cached values log 13 and log 14. -/
def Obligations.CallReturnsTheResponse : Prop :=
  ∀ (s : State) (call : Call) (m : Message), s.host = .waiting call → s.rxState = .idle → s.rxOutcome = .ok →
    hostReadMessage s = .ok m →
    (call = .receive → resume s = .next { s with host := .idle, answer := .message m }) ∧
    (∀ c : Byte, sentCommand call = some c → m.command ≠ c →
      resume s = .next { s with host := .idle, answer := .raised .unexpectedResponse }) ∧
    (∀ c : Byte, call = .request c → m.command = c →
      resume s = .next { s with host := .idle, answer := .returned m.payload m.address }) ∧
    ((call = .localRead ∨ ∃ left : Option Nat, call = .bootstrap left) → m.command = Config.identityCommand →
      ∃ t : State, resume s = .next t ∧
        t = { s with host := .idle, answer := .returned m.payload m.address, identity := t.identity } ∧
        ∃ v : Identity, t.identity = some v ∧ v.networkId = Config.networkIdOf m.payload ∧
          v.uniqueId = Config.uniqueIdOf m.payload) ∧
    (((∃ p : List Byte, call = .configure p ∧ m.command = 0xD6#8 ∧ m.payload = p) ∨
        ∃ (c : Byte) (p : List Byte), call = .identityStore c p ∧ m.command = c) →
      ∃ t : State, resume s = .next t ∧
        t = { s with host := .idle, answer := .returned m.payload m.address, identity := t.identity } ∧
        (t.identity = none ↔ s.identity = none)) ∧
    (∀ p : List Byte, call = .configure p → m.command = 0xD6#8 → m.payload ≠ p →
      resume s = .next { s with host := .idle, answer := .raised .echoMismatch })

/-- R105, R118, R136: a call whose receive failed raises the outcome and is not retried, the bootstrap excepted, which
asks again while retries are left after `Timeout` or `ChecksumMismatch` (R125; what counts as a retry is log 21). -/
def Obligations.CallRaisesTheOutcome : Prop :=
  ∀ (s : State) (call : Call), s.host = .waiting call → s.rxState = .idle → s.rxOutcome ≠ .ok →
    ((∀ left : Option Nat, call ≠ .bootstrap left) →
      resume s = .next { s with host := .idle, answer := .raised (.status s.rxOutcome) }) ∧
    (call = .bootstrap (some 0) →
      resume s = .next { s with host := .idle, answer := .raised (.status s.rxOutcome) }) ∧
    (∀ left : Option Nat, call = .bootstrap left → s.rxOutcome ≠ .timeout → s.rxOutcome ≠ .checksumMismatch →
      resume s = .next { s with host := .idle, answer := .raised (.status s.rxOutcome) }) ∧
    (call = .bootstrap none → (s.rxOutcome = .timeout ∨ s.rxOutcome = .checksumMismatch) →
      resume s = startIdentityQuery (.bootstrap none) { s with host := .idle }) ∧
    (∀ n : Nat, call = .bootstrap (some (n + 1)) → (s.rxOutcome = .timeout ∨ s.rxOutcome = .checksumMismatch) →
      resume s = startIdentityQuery (.bootstrap (some n)) { s with host := .idle })

/-- R113, R119, R120 (log 5, log 10 for the schedule and the return): a request, a response frame that
has arrived by the first tick, and silence: the host's call returns the response's payload and masked source address,
or `UnexpectedResponse` when the command differs, after exactly `L + IB_WINDOW - 1` ticks. -/
def Obligations.RequestReturnsTheResponsePayload : Prop :=
  ∀ (s : State) (address raw : Word) (command answered : Byte) (payload response : List Byte) (n : Nat),
    s.host = .idle → s.rxState = .idle → address.toNat ≤ 2 ^ s.cfg.aw.bits - 1 →
    payload.length < s.cfg.maxPayload → 2 ≤ s.cfg.ibWindow.toNat → response.length + 5 ≤ s.cfg.rxCap →
    n + 1 = response.length + 5 + s.cfg.ibWindow.toNat - 1 →
    s.schedule = present (.request address command payload) ::
      { arrivals := wireFrame raw answered response, input := .word .event [] } :: silentTicks n →
    ∃ (t : State) (f : List Byte), steps (n + 2) s = .next t ∧
      encodeFrame s.cfg address command payload = .ok f ∧ t.lineOut = s.lineOut ++ f ∧
      t.host = .idle ∧ t.rxState = .idle ∧ t.rxOutcome = .ok ∧ t.schedule = [] ∧
      t.answer = if answered = command then .returned response (raw &&& BitVec.ofNat 16 (2 ^ s.cfg.aw.bits - 1))
        else .raised .unexpectedResponse

/-! ## Encodings -/

/-- Decode and encode agree on every well-formed instruction. The operand lanes are the model's (log 6). -/
def Obligations.DecodeUndoesEncode : Prop :=
  ∀ i : Instr, i.wf = true → decode (encode i).1 (encode i).2 = .ok i

/-- The decoder answers only well-formed instructions, of the format the word was presented on. -/
def Obligations.DecoderAnswersWellFormed : Prop :=
  ∀ (f : Format) (bytes : List Byte) (i : Instr), decode f bytes = .ok i → i.wf = true ∧ i.format = f

/-- R58, R49, R63: words with the spec's select codes, frames and command byte decode to the rows they stand for: the four
select codes on the request port, the minimum frame and the frame of the worked example, the command byte 0xD6. The
operand lanes after a select code and after 0xD6 are the model's choice (log 6), and so is 0xD6 as a row (log 12). -/
def Obligations.WrittenOutWordsDecode : Prop :=
  decode .opsel [0b00#8] = .ok .noRequest ∧
  decode .opsel [0b01#8, 0#8] = .ok (.crc16 []) ∧
  decode .opsel [0b10#8, 0x31#8, 0x00#8, 0xD6#8, 0x01#8, 0x00#8, 0x14#8] = .ok (.encode 49#16 0xD6#8 [0x14#8]) ∧
  decode .opsel [0b11#8, 0x88#8, 0x13#8] = .ok (.rxStart 5000#16) ∧
  decode .wire [0x00#8, 0x00#8, 0x00#8, 0x01#8, 0xB8#8] = .ok (.frameMin 0#16 0#8) ∧
  decode .wire [0x05#8, 0x00#8, 0xE2#8, 0xAA#8, 0x55#8, 0xD3#8, 0x4B#8] = .ok (.frame 5#16 0xE2#8 [0xAA#8, 0x55#8]) ∧
  decode .commandCode [0xD6#8, 0x31#8, 0x00#8, 0#8] = .ok (.cmdD6 49#16 [])

/-! ## The machine -/

/-- R14: `RX_STATE` changes only where `RX_START` is issued, at a tick, or by reset. First for an instruction alone, then for
a step, in which the host's own stimuli issue `RX_START` too. -/
def Obligations.OnlyReceiveOperationsChangeRxState : Prop :=
  (∀ (i : Instr) (s t : State), exec i s = .next t → t.rxState ≠ s.rxState →
    (s.rxState = .run → i = .rxTick) ∧ (s.rxState = .idle → issuesRxStart i = true)) ∧
  (∀ s t : State, s.Inv → step s = .next t → t.rxState ≠ s.rxState →
    ∃ (st : Stimulus) (rest : List Stimulus), s.schedule = st :: rest ∧
      (st.input = .reset ∨ s.rxState = .idle ∧ startsHostCall st.input = true ∨
        ∃ (f : Format) (bytes : List Byte) (i : Instr), st.input = .word f bytes ∧ decode f bytes = .ok i ∧
          (s.rxState = .run ∧ i = .rxTick ∨ s.rxState = .idle ∧ issuesRxStart i = true)))

/-- R13, R24: the transmit registers are written only by `ENCODE` and by reset. First for an instruction alone, then for a
step, in which the host's own stimuli issue `ENCODE` too, and so does a tick that ends a bootstrap's attempt (R125, log
21). -/
def Obligations.OnlyEncodeWritesTheTransmitSide : Prop :=
  (∀ (i : Instr) (s t : State), exec i s = .next t →
    (t.txbuf ≠ s.txbuf ∨ t.txLen ≠ s.txLen ∨ t.encOutcome ≠ s.encOutcome) → issuesEncode i = true) ∧
  (∀ s t : State, s.Inv → step s = .next t →
    (t.txbuf ≠ s.txbuf ∨ t.txLen ≠ s.txLen ∨ t.encOutcome ≠ s.encOutcome) →
    ∃ (st : Stimulus) (rest : List Stimulus), s.schedule = st :: rest ∧
      (st.input = .reset ∨ startsHostCall st.input = true ∨
        ∃ (f : Format) (bytes : List Byte) (i : Instr), st.input = .word f bytes ∧ decode f bytes = .ok i ∧
          (issuesEncode i = true ∨ i = .rxTick ∧ ∃ left : Option Nat, s.host = .waiting (.bootstrap left))))

/-- R8, R48 (a): no step changes a parameter. -/
def Obligations.ParametersNeverChange : Prop :=
  ∀ s t : State, step s = .next t → t.cfg = s.cfg

/-- Log 5. The word next on the schedule that decodes to an instruction: the step puts the bytes that arrive with it at the
tail of `TQ`, runs the instruction, and lets a blocked host call return. -/
def Obligations.StepRunsTheDecodedInstruction : Prop :=
  ∀ (s : State) (f : Format) (bytes arrivals : List Byte) (rest : List Stimulus) (i : Instr),
    s.schedule = { arrivals := arrivals, input := .word f bytes } :: rest → decode f bytes = .ok i →
    step s = andThen (exec i { s with schedule := rest, tq := s.tq ++ arrivals }) resume

/-- The model's choice (log 6): a word that decodes to nothing is refused by name. -/
def Obligations.StepRefusesUndecodableWords : Prop :=
  ∀ (s : State) (f : Format) (bytes arrivals : List Byte) (rest : List Stimulus) (e : DecodeError),
    s.schedule = { arrivals := arrivals, input := .word f bytes } :: rest → decode f bytes = .error e →
    step s = .refused (.undecodable e)

/-- R150: with nothing presented the block waits. -/
def Obligations.IdleMachineWaits : Prop :=
  ∀ s : State, s.schedule = [] → step s = .next s

/-- R147, R148, R149: the reset input puts every register at its reset value whatever the block was doing, and touches
neither `TQ` nor the line. That a blocked host call is abandoned is the model's (log 20). -/
def Obligations.ResetInputResetsTheBlock : Prop :=
  ∀ (s : State) (arrivals : List Byte) (rest : List Stimulus),
    s.schedule = { arrivals := arrivals, input := .reset } :: rest →
    ∃ t : State, step s = .next t ∧
      t = { s with rxState := .idle, rxI := 0#16, rxIb := 0#16, rxDl := 0#16, rxOvf := false, rxOutcome := .none,
                   rxbuf := [], txbuf := [], txLen := 0#16, encOutcome := .none, answer := .nothing,
                   respOutcome := .none, host := .idle,
                   tq := s.tq ++ arrivals, schedule := rest, decAddr := t.decAddr, decCmd := t.decCmd,
                   decPlen := t.decPlen, freeCount := t.freeCount }

/-- R29: the values the spec gives for reset, in `State.reset`. -/
def Obligations.ResetStateHasTheSpecValues : Prop :=
  State.reset.rxState = .idle ∧ State.reset.rxI = 0#16 ∧ State.reset.rxIb = 0#16 ∧ State.reset.rxDl = 0#16 ∧
  State.reset.rxOvf = false ∧ State.reset.rxOutcome.code = 0#3 ∧ State.reset.txLen = 0#16 ∧
  State.reset.encOutcome.code = 0#3 ∧
  ∀ k : Nat, Memory.read State.reset.rxbuf k = none ∧ Memory.read State.reset.txbuf k = none

/-- The invariant holds after reset. -/
def Obligations.ResetMeetsTheInvariant : Prop := State.reset.Inv

/-- The invariant (R15 to R26, R79, R102, R134) is kept by every step, whatever is presented. -/
def Obligations.StepKeepsTheInvariant : Prop :=
  ∀ s t : State, s.Inv → step s = .next t → t.Inv

/-- From a state that meets the invariant no step faults: no undefined byte and no invalid register is read. -/
def Obligations.InvariantStatesAreSafe : Prop :=
  ∀ s : State, s.Inv → s.Safe

/-- R121 (log 19) and R158, U8 (log 18): a host call is refused while the last one has not returned, and, where it gets as
far as a request to the block, while a receive runs. -/
def Obligations.HostCallsRefused : Prop :=
  ∀ (s : State) (address : Word) (command : Byte) (payload : List Byte) (deadline : Word),
    (∀ call : Call, s.host = .waiting call →
      exec (.receive deadline) s = .refused .reentrantCall ∧
      exec (.request address command payload) s = .refused .reentrantCall ∧
      exec .localRead s = .refused .reentrantCall ∧
      exec (.cmdD6 address payload) s = .refused .reentrantCall ∧
      ∀ (st : Stimulus) (rest : List Stimulus), s.schedule = st :: rest → startsHostCall st.input = true →
        step s = .refused .reentrantCall) ∧
    (s.host = .idle → s.rxState = .run →
      exec (.receive deadline) s = .refused .requestWhileRunning ∧
      (address.toNat ≤ 2 ^ s.cfg.aw.bits - 1 →
        exec (.request address command payload) s = .refused .requestWhileRunning ∧
        exec (.cmdD6 address payload) s = .refused .requestWhileRunning) ∧
      (Config.identityAddress.toNat ≤ 2 ^ s.cfg.aw.bits - 1 →
        exec .localRead s = .refused .requestWhileRunning) ∧
      ∀ (st : Stimulus) (rest : List Stimulus), s.schedule = st :: rest →
        (st.input = .identityStore address command payload ∧ address.toNat ≤ 2 ^ s.cfg.aw.bits - 1 ∨
          st.input = .sessionStart ∧ Config.identityAddress.toNat ≤ 2 ^ s.cfg.aw.bits - 1) →
        step s = .refused .requestWhileRunning)

/-- R152: until an identity read has succeeded the host's identity cache holds nothing: it stops being empty only in the step
in which `LOCALREAD` or the bootstrap returns after a receive that ended in `OK`. -/
def Obligations.IdentityEmptyUntilARead : Prop :=
  ∀ s t : State, step s = .next t → s.identity = none → t.identity ≠ none →
    (s.host = .waiting .localRead ∨ ∃ left : Option Nat, s.host = .waiting (.bootstrap left)) ∧
    t.host = .idle ∧ t.rxState = .idle ∧ t.rxOutcome = .ok
end

