-- ==== Sys2Proof/Laws/Frame.lean ====
section
/-! SUPPORT. Bytes of words, the CRC of a concatenation, and the wire format read back. -/

namespace Sys2Proof.Machine

/-- Splitting a word and joining its bytes gives the word. -/
@[simp] theorem joinLE_loByte_hiByte (v : Word) : joinLE (loByte v) (hiByte v) = v := by
  apply BitVec.eq_of_getLsbD_eq
  intro i hi
  simp only [joinLE, loByte, hiByte, BitVec.getLsbD_or, BitVec.getLsbD_shiftLeft, BitVec.getLsbD_setWidth,
    BitVec.getLsbD_ushiftRight]
  by_cases h : i < 8
  · simp [h, hi]
  · have h2 : i - 8 < 8 := by omega
    have h3 : 8 + (i - 8) = i := by omega
    simp [h, hi, h2, h3, show i - 8 < 16 by omega]

@[simp] theorem loByte_joinLE (lo hi : Byte) : loByte (joinLE lo hi) = lo := by
  apply BitVec.eq_of_getLsbD_eq
  intro i hi
  simp [joinLE, loByte, hi]

@[simp] theorem hiByte_joinLE (lo hi : Byte) : hiByte (joinLE lo hi) = hi := by
  apply BitVec.eq_of_getLsbD_eq
  intro i h
  simp [joinLE, hiByte, h, show 8 + i < 16 by omega, show i < 16 by omega]

/-- `{hi, lo}` is bit concatenation with `hi` in the more significant position (R10). -/
theorem joinLE_eq_append (lo hi : Byte) : joinLE lo hi = (hi ++ lo : BitVec (8 + 8)) := by
  apply BitVec.eq_of_getLsbD_eq
  intro i h
  rw [BitVec.getLsbD_append]
  by_cases hl : i < 8
  · simp [joinLE, h, hl]
  · have h2 : lo.getLsbD i = false := BitVec.getLsbD_of_ge _ _ (by omega)
    simp [joinLE, h, hl, h2]

theorem joinLE_inj {a b c d : Byte} (h : joinLE a b = joinLE c d) : a = c ∧ b = d :=
  ⟨by simpa using congrArg loByte h, by simpa using congrArg hiByte h⟩

/-- `ADDR_MAX = 2^AW - 1` (R8). -/
theorem addrMax_eq (aw : AddrWidth) : aw.addrMax = 2 ^ aw.bits - 1 := rfl

theorem addrMax_lt (aw : AddrWidth) : aw.addrMax < 2 ^ 16 := by cases aw <;> decide

theorem toNat_addrMask (aw : AddrWidth) : (addrMask aw).toNat = aw.addrMax := by cases aw <;> rfl

/-- Masking to `AW` bits is the remainder by `2^AW`. -/
theorem toNat_maskAddr (aw : AddrWidth) (v : Word) : (maskAddr aw v).toNat = v.toNat % 2 ^ aw.bits := by
  rw [maskAddr, BitVec.toNat_and, toNat_addrMask, addrMax_eq, Nat.and_two_pow_sub_one_eq_mod]

/-- An address in range is not changed by the mask. -/
theorem maskAddr_of_inRange (aw : AddrWidth) (a : Word) (h : addressInRange aw a = true) : maskAddr aw a = a := by
  apply BitVec.eq_of_toNat_eq
  rw [toNat_maskAddr]
  have h : a.toNat ≤ aw.addrMax := of_decide_eq_true h
  rw [addrMax_eq] at h
  have : 0 < 2 ^ aw.bits := Nat.two_pow_pos _
  exact Nat.mod_eq_of_lt (by omega)

/-- On transmit the mask changes nothing (R51). -/
theorem addrHi_of_inRange (aw : AddrWidth) (a : Word) (h : addressInRange aw a = true) : addrHi aw a = hiByte a := by
  have hm := maskAddr_of_inRange aw a h
  have : (a >>> 8) &&& (addrMask aw >>> 8) = (a &&& addrMask aw) >>> 8 := by
    rw [BitVec.ushiftRight_and_distrib]
  rw [addrHi, this, ← maskAddr, hm, hiByte]

/-! The CRC. -/

theorem crcFrom_append (acc : Word) (a b : List Byte) : crcFrom acc (a ++ b) = crcFrom (crcFrom acc a) b := by
  induction a generalizing acc with
  | nil => rfl
  | cons x a ih => exact ih _

theorem crc16_append (a b : List Byte) : crc16 (a ++ b) = crcFrom (crc16 a) b := crcFrom_append _ _ _

/-! The wire format. -/

@[simp] theorem length_withCrc (body : List Byte) : (withCrc body).length = body.length + 2 := by simp [withCrc]

@[simp] theorem length_wireFrame (raw : Word) (command : Byte) (payload : List Byte) :
    (wireFrame raw command payload).length = payload.length + 5 := by
  simp [wireFrame]

/-- The frame `ENCODE` makes is the wire frame of its address (R51). -/
theorem withCrc_frameBody (aw : AddrWidth) (a : Word) (command : Byte) (payload : List Byte)
    (h : addressInRange aw a = true) : withCrc (frameBody aw a command payload) = wireFrame a command payload := by
  rw [frameBody, addrHi_of_inRange aw a h, wireFrame]

theorem take_withCrc (body : List Byte) : (withCrc body).take ((withCrc body).length - 2) = body := by
  simp [withCrc]

theorem crcBytes_withCrc (body : List Byte) :
    joinLE ((withCrc body).getD ((withCrc body).length - 2) 0) ((withCrc body).getD ((withCrc body).length - 1) 0) =
      crc16 body := by
  have h1 : (withCrc body).getD ((withCrc body).length - 2) 0 = loByte (crc16 body) := by
    simp [withCrc, List.getD_eq_getElem?_getD]
  have h2 : (withCrc body).getD ((withCrc body).length - 1) 0 = hiByte (crc16 body) := by
    simp [withCrc, List.getD_eq_getElem?_getD]
  rw [h1, h2, joinLE_loByte_hiByte]

/-- A frame on the wire reads back as its fields. -/
theorem parseFrame_wireFrame (raw : Word) (command : Byte) (payload : List Byte) :
    parseFrame (wireFrame raw command payload) =
      .ok { address := raw, command := command, payload := payload } := by
  rw [parseFrame, if_neg (by simp [Config.minFrame])]
  have hb : wireFrame raw command payload = withCrc ([loByte raw, hiByte raw, command] ++ payload) := rfl
  rw [hb, take_withCrc, crcBytes_withCrc, if_pos rfl]
  simp [withCrc]

/-- The checks in order, as an inversion: an answered message comes from a frame of at least 5 bytes whose last two are
the CRC of the rest. -/
theorem parseFrame_eq_ok (b : List Byte) (m : Message) (h : parseFrame b = .ok m) :
    5 ≤ b.length ∧
    crc16 (b.take (b.length - 2)) = joinLE (b.getD (b.length - 2) 0) (b.getD (b.length - 1) 0) ∧
    m = { address := joinLE (b.getD 0 0) (b.getD 1 0), command := b.getD 2 0,
          payload := (b.take (b.length - 2)).drop 3 } := by
  unfold parseFrame at h
  split at h
  · cases h
  · split at h
    · next h1 h2 =>
      simp only [Config.minFrame, not_lt] at h1
      exact ⟨h1, h2, by simpa using h.symm⟩
    · cases h

/-- The errors of `decode` are the two of R88. -/
theorem parseFrame_eq_error (b : List Byte) (e : Status) (h : parseFrame b = .error e) :
    (b.length < 5 ∧ e = .frameTooShort) ∨ (5 ≤ b.length ∧ e = .checksumMismatch) := by
  unfold parseFrame at h
  split at h
  · next h1 => exact .inl ⟨h1, by simpa using h.symm⟩
  · split at h
    · cases h
    · next h1 _ =>
      simp only [Config.minFrame, not_lt] at h1
      exact .inr ⟨h1, by simpa using h.symm⟩

theorem decodeFrame_eq_error (aw : AddrWidth) (b : List Byte) (e : Status) (h : decodeFrame aw b = .error e) :
    (b.length < 5 ∧ e = .frameTooShort) ∨ (5 ≤ b.length ∧ e = .checksumMismatch) := by
  unfold decodeFrame at h
  cases hp : parseFrame b with
  | ok m => simp [hp] at h
  | error e' =>
    simp only [hp, Except.error.injEq] at h
    subst h
    exact parseFrame_eq_error b _ hp

theorem decodeFrame_eq_ok (aw : AddrWidth) (b : List Byte) (m : Message) (h : decodeFrame aw b = .ok m) :
    5 ≤ b.length ∧ m.payload.length + 5 = b.length ∧ m.payload = (b.take (b.length - 2)).drop 3 := by
  unfold decodeFrame at h
  cases hp : parseFrame b with
  | error e' => simp [hp] at h
  | ok m' =>
    simp only [hp, Except.ok.injEq] at h
    subst h
    obtain ⟨h5, -, rfl⟩ := parseFrame_eq_ok b m' hp
    refine ⟨h5, ?_, rfl⟩
    simp only [List.length_drop, List.length_take]
    omega

/-- `encode` answers a frame exactly for operands in range. -/
theorem encodeFrame_eq_ok (c : Config) (a : Word) (command : Byte) (payload f : List Byte) :
    encodeFrame c a command payload = .ok f ↔
      addressInRange c.aw a = true ∧ payloadInRange c payload = true ∧ f = withCrc (frameBody c.aw a command payload) := by
  unfold encodeFrame
  split
  · split
    · next h1 h2 => simp [h1, h2, eq_comm]
    · next h1 h2 => simp [h2]
  · next h1 => simp [h1]

theorem encodeFrame_eq_error (c : Config) (a : Word) (command : Byte) (payload : List Byte) (e : Status)
    (h : encodeFrame c a command payload = .error e) :
    (addressInRange c.aw a = false ∧ e = .addressOutOfRange) ∨
      (addressInRange c.aw a = true ∧ payloadInRange c payload = false ∧ e = .payloadTooLarge) := by
  unfold encodeFrame at h
  split at h
  · split at h
    · cases h
    · next h1 h2 => exact .inr ⟨h1, by simpa using h2, by simpa using h.symm⟩
  · next h1 => exact .inl ⟨by simpa using h1, by simpa using h.symm⟩

theorem length_encodeFrame (c : Config) (a : Word) (command : Byte) (payload f : List Byte)
    (h : encodeFrame c a command payload = .ok f) : f.length = payload.length + 5 ∧ f.length ≤ c.txCap ∧ f.length < 2 ^ 16 := by
  obtain ⟨-, h2, rfl⟩ := (encodeFrame_eq_ok _ _ _ _ _).1 h
  have hp : payload.length < c.maxPayload := by simpa [payloadInRange] using h2
  have := c.maxPayload_le
  simp [frameBody, Config.txCap]
  omega

end Sys2Proof.Machine
end

