-- ==== Sys2Proof/Laws/Decode.lean ====
section
/-! SUPPORT. Each operand reader undoes its writer. -/

namespace Sys2Proof

open Machine

/-- A byte sequence operand reads back, whatever follows it. -/
@[simp] theorem readSeq_encodeSeq (s rest : List Byte) : readSeq (encodeSeq s ++ rest) = .ok (s, rest) := by
  induction s with
  | nil => cases rest <;> simp [encodeSeq, readSeq]
  | cons b s ih => simp [encodeSeq, readSeq, ih]

/-- A 16-bit operand reads back. -/
@[simp] theorem readWord_encodeWord (v : Word) (rest : List Byte) :
    readWord (encodeWord v ++ rest) = .ok (v, rest) := by
  simp [encodeWord, readWord]

@[simp] theorem readByte_cons (b : Byte) (rest : List Byte) : readByte (b :: rest) = .ok (b, rest) := rfl

/-- A payload reads back by its length. -/
@[simp] theorem readBytes_append (p rest : List Byte) : readBytes p.length (p ++ rest) = .ok (p, rest) := by
  simp [readBytes]

@[simp] theorem finishDecode_nil (i : Instr) : finishDecode i [] = .ok i := rfl

/-- A reader that ends in `finishDecode` answers only its own instruction. -/
theorem finishDecode_eq_ok (i j : Instr) (rest : List Byte) (h : finishDecode i rest = .ok j) : j = i := by
  unfold finishDecode at h
  split at h
  · exact (Except.ok.inj h).symm
  · cases h

/-- `readBytes` answers exactly `n` bytes. -/
theorem readBytes_eq_ok (n : Nat) (bs p rest : List Byte) (h : readBytes n bs = .ok (p, rest)) : p.length = n := by
  unfold readBytes at h
  split at h
  · next hn =>
    obtain ⟨rfl, -⟩ := Prod.mk.inj (Except.ok.inj h)
    simpa using hn
  · cases h

end Sys2Proof
end

