-- ==== Sys2Proof/Laws/Memory.lean ====
section
/-! SUPPORT. The buffer spaces as memory: read after write, the canonical form is kept, ranges. -/

namespace Sys2Proof.Machine

@[simp] theorem Memory.read_nil (k : Nat) : Memory.read [] k = none := rfl

/-- A read after a write to the same index gives the byte written. -/
@[simp] theorem Memory.read_write_same (m : Memory) (k : Nat) (v : Byte) :
    Memory.read (Memory.write m k v) k = some v := by
  induction m with
  | nil => simp [Memory.write, Memory.read]
  | cons c m ih =>
    obtain ⟨a, b⟩ := c
    simp only [Memory.write]
    split
    · simp [Memory.read]
    · split
      · simp [Memory.read]
      · have : a ≠ k := by omega
        simp [Memory.read, this, ih]

/-- A write leaves every other index alone. -/
theorem Memory.read_write_ne (m : Memory) (k j : Nat) (v : Byte) (h : j ≠ k) :
    Memory.read (Memory.write m k v) j = Memory.read m j := by
  induction m with
  | nil => simp [Memory.write, Memory.read, h.symm]
  | cons c m ih =>
    obtain ⟨a, b⟩ := c
    simp only [Memory.write]
    split
    · simp [Memory.read, h.symm]
    · split
      · next h2 => subst h2; simp [Memory.read, h.symm]
      · simp only [Memory.read, ih]

theorem Memory.wfFrom_mono {lo lo' : Nat} (m : Memory) (hle : lo' ≤ lo) (h : Memory.wfFrom lo m = true) :
    Memory.wfFrom lo' m = true := by
  cases m with
  | nil => rfl
  | cons c m =>
    obtain ⟨a, b⟩ := c
    simp only [Memory.wfFrom, Bool.and_eq_true, decide_eq_true_eq] at h ⊢
    exact ⟨by omega, h.2⟩

theorem Memory.wfFrom_write (m : Memory) (lo k : Nat) (v : Byte) (hk : lo ≤ k) (h : Memory.wfFrom lo m = true) :
    Memory.wfFrom lo (Memory.write m k v) = true := by
  induction m generalizing lo with
  | nil => simp [Memory.write, Memory.wfFrom, hk]
  | cons c m ih =>
    obtain ⟨a, b⟩ := c
    simp only [Memory.wfFrom, Bool.and_eq_true, decide_eq_true_eq] at h
    simp only [Memory.write]
    split
    · simp only [Memory.wfFrom, Bool.and_eq_true, decide_eq_true_eq]
      exact ⟨hk, by omega, h.2⟩
    · split
      · next h2 => subst h2; simp only [Memory.wfFrom, Bool.and_eq_true, decide_eq_true_eq]; exact h
      · simp only [Memory.wfFrom, Bool.and_eq_true, decide_eq_true_eq]
        exact ⟨h.1, ih _ (by omega) h.2⟩

/-- A write keeps the canonical form. -/
theorem Memory.wf_write (m : Memory) (k : Nat) (v : Byte) (h : m.wf = true) : (Memory.write m k v).wf = true :=
  Memory.wfFrom_write m 0 k v (Nat.zero_le k) h

/-- A sequence of writes keeps the canonical form. -/
theorem Memory.wf_writeAll (m : Memory) (k : Nat) (vs : List Byte) (h : m.wf = true) :
    (Memory.writeAll m k vs).wf = true := by
  induction vs generalizing m k with
  | nil => exact h
  | cons v vs ih => exact ih _ _ (Memory.wf_write m k v h)

theorem Memory.wf_nil : Memory.wf [] = true := rfl

/-- Writing at the index after the last one appends a cell. -/
theorem Memory.write_end (m : Memory) (v : Byte) (k : Nat) (h : ∀ c ∈ m, c.1 < k) :
    Memory.write m k v = m ++ [(k, v)] := by
  induction m with
  | nil => rfl
  | cons c m ih =>
    obtain ⟨a, b⟩ := c
    have ha : a < k := h (a, b) (by simp)
    simp only [Memory.write, List.cons_append]
    rw [if_neg (by omega), if_neg (by omega), ih fun c hc => h c (by simp [hc])]

/-- A memory whose indices are exactly `0 .. n-1` grows by one cell when `n` is written. -/
theorem Memory.map_fst_write_end (m : Memory) (v : Byte) (n : Nat) (h : m.map Prod.fst = List.range n) :
    (Memory.write m n v).map Prod.fst = List.range (n + 1) := by
  have hlt : ∀ c ∈ m, c.1 < n := by
    intro c hc
    have : c.1 ∈ m.map Prod.fst := List.mem_map.2 ⟨c, hc, rfl⟩
    rw [h] at this
    exact List.mem_range.1 this
  rw [Memory.write_end m v n hlt, List.range_succ, List.map_append, h]
  rfl

/-- The byte written at the end comes last. -/
theorem Memory.map_snd_write_end (m : Memory) (v : Byte) (n : Nat) (h : m.map Prod.fst = List.range n) :
    (Memory.write m n v).map Prod.snd = m.map Prod.snd ++ [v] := by
  have hlt : ∀ c ∈ m, c.1 < n := by
    intro c hc
    have : c.1 ∈ m.map Prod.fst := List.mem_map.2 ⟨c, hc, rfl⟩
    rw [h] at this
    exact List.mem_range.1 this
  rw [Memory.write_end m v n hlt]
  simp

theorem Memory.map_fst_writeAll_end (vs : List Byte) (m : Memory) (n : Nat) (h : m.map Prod.fst = List.range n) :
    (Memory.writeAll m n vs).map Prod.fst = List.range (n + vs.length) := by
  induction vs generalizing m n with
  | nil => simpa [Memory.writeAll] using h
  | cons v vs ih =>
    rw [Memory.writeAll, ih _ _ (Memory.map_fst_write_end m v n h), List.length_cons]
    congr 1
    omega

/-- Writes at `n`, `n + 1`, … leave what stands below. -/
theorem Memory.read_writeAll_lt (vs : List Byte) (m : Memory) (n k : Nat) (h : k < n) :
    Memory.read (Memory.writeAll m n vs) k = Memory.read m k := by
  induction vs generalizing m n with
  | nil => rfl
  | cons v vs ih =>
    rw [Memory.writeAll, ih _ _ (by omega), Memory.read_write_ne _ _ _ _ (by omega)]

theorem Memory.read_writeAll_at (vs : List Byte) (m : Memory) (n i : Nat) (h : i < vs.length) :
    Memory.read (Memory.writeAll m n vs) (n + i) = vs[i]? := by
  induction vs generalizing m n i with
  | nil => simp at h
  | cons v vs ih =>
    cases i with
    | zero => simp [Memory.writeAll, Memory.read_writeAll_lt]
    | succ i =>
      have := ih (Memory.write m n v) (n + 1) i (by simpa using h)
      rw [Memory.writeAll, show n + (i + 1) = n + 1 + i by omega, this]
      simp

theorem Memory.read_eq_none (m : Memory) (k : Nat) (h : k ∉ m.map Prod.fst) : Memory.read m k = none := by
  induction m with
  | nil => rfl
  | cons c m ih =>
    obtain ⟨a, b⟩ := c
    simp only [List.map_cons, List.mem_cons, not_or] at h
    simp [Memory.read, Ne.symm h.1, ih h.2]

/-- A buffer written from empty holds exactly the sequence. -/
theorem Memory.read_writeAll (vs : List Byte) (k : Nat) : Memory.read (Memory.writeAll [] 0 vs) k = vs[k]? := by
  by_cases h : k < vs.length
  · simpa using Memory.read_writeAll_at vs [] 0 k h
  · have hk : k ∉ (Memory.writeAll [] 0 vs).map Prod.fst := by
      rw [Memory.map_fst_writeAll_end vs [] 0 rfl]
      simpa using Nat.le_of_not_lt h
    rw [Memory.read_eq_none _ _ hk, List.getElem?_eq_none (Nat.le_of_not_lt h)]

/-- Reading a range succeeds exactly with the bytes read one by one. -/
theorem Memory.readRange_eq_ok (m : Memory) (k n : Nat) (bs : List Byte) :
    Memory.readRange m k n = .ok bs ↔ bs.length = n ∧ ∀ i, i < n → Memory.read m (k + i) = bs[i]? := by
  induction n generalizing k bs with
  | zero =>
    constructor
    · rintro h
      cases h
      simp
    · rintro ⟨h, -⟩
      rw [List.length_eq_zero_iff.1 h]
      rfl
  | succ n ih =>
    simp only [Memory.readRange]
    constructor
    · intro h
      cases hr : Memory.read m k with
      | none => simp [hr] at h
      | some b =>
        cases hrr : Memory.readRange m (k + 1) n with
        | error e => simp [hr, hrr] at h
        | ok rs =>
          obtain ⟨hl, hrs⟩ := (ih (k + 1) rs).1 hrr
          simp only [hr, hrr, Except.ok.injEq] at h
          subst h
          refine ⟨by simp [hl], fun i hi => ?_⟩
          cases i with
          | zero => simpa using hr
          | succ i =>
            rw [show k + (i + 1) = k + 1 + i by omega, hrs i (by omega)]
            simp
    · rintro ⟨hl, h⟩
      cases bs with
      | nil => simp at hl
      | cons b bs =>
        have h0 : Memory.read m k = some b := by simpa using h 0 (by omega)
        have hrr : Memory.readRange m (k + 1) n = .ok bs := by
          refine (ih (k + 1) bs).2 ⟨by simpa using hl, fun i hi => ?_⟩
          have := h (i + 1) (by omega)
          rw [show k + 1 + i = k + (i + 1) by omega, this]
          simp
        simp [h0, hrr]

/-- In a buffer whose defined indices are `0 .. n-1`, every range below `n` reads. -/
theorem Memory.readRange_of_prefix (m : Memory) (n : Nat) (h : m.map Prod.fst = List.range n) :
    Memory.readRange m 0 n = .ok (m.map Prod.snd) := by
  have hlen : m.length = n := by simpa using congrArg List.length h
  refine (Memory.readRange_eq_ok m 0 n _).2 ⟨by simpa using hlen, fun i hi => ?_⟩
  have key : ∀ (m : Memory) (o n : Nat), m.map Prod.fst = List.range' o n → ∀ i, i < n →
      Memory.read m (o + i) = (m.map Prod.snd)[i]? := by
    intro m
    induction m with
    | nil =>
      intro o n h i hi
      have := congrArg List.length h
      simp at this
      omega
    | cons c m ih =>
      intro o n h i hi
      obtain ⟨a, b⟩ := c
      cases n with
      | zero => simp at h
      | succ n =>
        rw [List.range'_succ, List.map_cons, List.cons.injEq] at h
        obtain ⟨rfl, h⟩ := h
        cases i with
        | zero => simp [Memory.read]
        | succ i =>
          have := ih (a + 1) n h i (by omega)
          simp only [Memory.read, List.map_cons, List.getElem?_cons_succ]
          rw [if_neg (by omega), ← this]
          congr 1
          omega
  simpa using key m 0 n (by rw [h, List.range_eq_range']) i hi

/-- A buffer whose defined indices are `0 .. n-1` is in the canonical form. -/
theorem Memory.wf_of_prefix (m : Memory) (n : Nat) (h : m.map Prod.fst = List.range n) : m.wf = true := by
  have key : ∀ (m : Memory) (lo n : Nat), m.map Prod.fst = List.range' lo n → Memory.wfFrom lo m = true := by
    intro m
    induction m with
    | nil => intro _ _ _; rfl
    | cons c m ih =>
      intro lo n h
      obtain ⟨a, b⟩ := c
      cases n with
      | zero => simp at h
      | succ n =>
        rw [List.range'_succ, List.map_cons, List.cons.injEq] at h
        obtain ⟨h1, h2⟩ := h
        simp only at h1
        subst h1
        simp [Memory.wfFrom, ih _ _ h2]
  exact key m 0 n (by rw [h, List.range_eq_range'])

/-- A range written reads back. -/
theorem Memory.readRange_writeAll (vs : List Byte) :
    Memory.readRange (Memory.writeAll [] 0 vs) 0 vs.length = .ok vs :=
  (Memory.readRange_eq_ok _ _ _ _).2 ⟨rfl, fun i _ => by simpa using Memory.read_writeAll vs i⟩

end Sys2Proof.Machine
end

