-- ==== Sys2Proof/Laws/State.lean ====
section
/-! SUPPORT. One lemma per field per update of the state, true by `rfl`. -/

namespace Sys2Proof.Machine

variable (s : State)

@[simp] theorem freeDec_cfg : (freeDec s).cfg = s.cfg := rfl
@[simp] theorem freeDec_rxState : (freeDec s).rxState = s.rxState := rfl
@[simp] theorem freeDec_rxI : (freeDec s).rxI = s.rxI := rfl
@[simp] theorem freeDec_rxIb : (freeDec s).rxIb = s.rxIb := rfl
@[simp] theorem freeDec_rxDl : (freeDec s).rxDl = s.rxDl := rfl
@[simp] theorem freeDec_rxOvf : (freeDec s).rxOvf = s.rxOvf := rfl
@[simp] theorem freeDec_rxOutcome : (freeDec s).rxOutcome = s.rxOutcome := rfl
@[simp] theorem freeDec_rxbuf : (freeDec s).rxbuf = s.rxbuf := rfl
@[simp] theorem freeDec_decAddr : (freeDec s).decAddr = Config.freeDecAddr s.freeCount := rfl
@[simp] theorem freeDec_decCmd : (freeDec s).decCmd = Config.freeDecCmd s.freeCount := rfl
@[simp] theorem freeDec_decPlen : (freeDec s).decPlen = Config.freeDecPlen s.freeCount := rfl
@[simp] theorem freeDec_txbuf : (freeDec s).txbuf = s.txbuf := rfl
@[simp] theorem freeDec_txLen : (freeDec s).txLen = s.txLen := rfl
@[simp] theorem freeDec_encOutcome : (freeDec s).encOutcome = s.encOutcome := rfl
@[simp] theorem freeDec_answer : (freeDec s).answer = s.answer := rfl
@[simp] theorem freeDec_respOutcome : (freeDec s).respOutcome = s.respOutcome := rfl
@[simp] theorem freeDec_tq : (freeDec s).tq = s.tq := rfl
@[simp] theorem freeDec_lineOut : (freeDec s).lineOut = s.lineOut := rfl
@[simp] theorem freeDec_host : (freeDec s).host = s.host := rfl
@[simp] theorem freeDec_identity : (freeDec s).identity = s.identity := rfl
@[simp] theorem freeDec_schedule : (freeDec s).schedule = s.schedule := rfl
@[simp] theorem freeDec_freeCount : (freeDec s).freeCount = s.freeCount + 1 := rfl

@[simp] theorem raiseCodec_cfg (e : Status) : (raiseError .codec e s).cfg = s.cfg := rfl
@[simp] theorem raiseCodec_rxState (e : Status) : (raiseError .codec e s).rxState = s.rxState := rfl
@[simp] theorem raiseCodec_rxI (e : Status) : (raiseError .codec e s).rxI = s.rxI := rfl
@[simp] theorem raiseCodec_rxIb (e : Status) : (raiseError .codec e s).rxIb = s.rxIb := rfl
@[simp] theorem raiseCodec_rxDl (e : Status) : (raiseError .codec e s).rxDl = s.rxDl := rfl
@[simp] theorem raiseCodec_rxOvf (e : Status) : (raiseError .codec e s).rxOvf = s.rxOvf := rfl
@[simp] theorem raiseCodec_rxOutcome (e : Status) : (raiseError .codec e s).rxOutcome = s.rxOutcome := rfl
@[simp] theorem raiseCodec_rxbuf (e : Status) : (raiseError .codec e s).rxbuf = s.rxbuf := rfl
@[simp] theorem raiseCodec_decAddr (e : Status) : (raiseError .codec e s).decAddr = s.decAddr := rfl
@[simp] theorem raiseCodec_decCmd (e : Status) : (raiseError .codec e s).decCmd = s.decCmd := rfl
@[simp] theorem raiseCodec_decPlen (e : Status) : (raiseError .codec e s).decPlen = s.decPlen := rfl
@[simp] theorem raiseCodec_txbuf (e : Status) : (raiseError .codec e s).txbuf = [] := rfl
@[simp] theorem raiseCodec_txLen (e : Status) : (raiseError .codec e s).txLen = 0#16 := rfl
@[simp] theorem raiseCodec_encOutcome (e : Status) : (raiseError .codec e s).encOutcome = e := rfl
@[simp] theorem raiseCodec_answer (e : Status) : (raiseError .codec e s).answer = .raised (.status e) := rfl
@[simp] theorem raiseCodec_respOutcome (e : Status) : (raiseError .codec e s).respOutcome = e := rfl
@[simp] theorem raiseCodec_tq (e : Status) : (raiseError .codec e s).tq = s.tq := rfl
@[simp] theorem raiseCodec_lineOut (e : Status) : (raiseError .codec e s).lineOut = s.lineOut := rfl
@[simp] theorem raiseCodec_host (e : Status) : (raiseError .codec e s).host = s.host := rfl
@[simp] theorem raiseCodec_identity (e : Status) : (raiseError .codec e s).identity = s.identity := rfl
@[simp] theorem raiseCodec_schedule (e : Status) : (raiseError .codec e s).schedule = s.schedule := rfl
@[simp] theorem raiseCodec_freeCount (e : Status) : (raiseError .codec e s).freeCount = s.freeCount := rfl

@[simp] theorem raiseFramer_cfg (e : Status) : (raiseError .framer e s).cfg = s.cfg := rfl
@[simp] theorem raiseFramer_rxState (e : Status) : (raiseError .framer e s).rxState = .idle := rfl
@[simp] theorem raiseFramer_rxI (e : Status) : (raiseError .framer e s).rxI = s.rxI := rfl
@[simp] theorem raiseFramer_rxIb (e : Status) : (raiseError .framer e s).rxIb = s.rxIb := rfl
@[simp] theorem raiseFramer_rxDl (e : Status) : (raiseError .framer e s).rxDl = s.rxDl := rfl
@[simp] theorem raiseFramer_rxOvf (e : Status) : (raiseError .framer e s).rxOvf = s.rxOvf := rfl
@[simp] theorem raiseFramer_rxOutcome (e : Status) : (raiseError .framer e s).rxOutcome = e := rfl
@[simp] theorem raiseFramer_rxbuf (e : Status) : (raiseError .framer e s).rxbuf = s.rxbuf := rfl
@[simp] theorem raiseFramer_decAddr (e : Status) : (raiseError .framer e s).decAddr = Config.freeDecAddr s.freeCount := rfl
@[simp] theorem raiseFramer_decCmd (e : Status) : (raiseError .framer e s).decCmd = Config.freeDecCmd s.freeCount := rfl
@[simp] theorem raiseFramer_decPlen (e : Status) : (raiseError .framer e s).decPlen = Config.freeDecPlen s.freeCount := rfl
@[simp] theorem raiseFramer_txbuf (e : Status) : (raiseError .framer e s).txbuf = s.txbuf := rfl
@[simp] theorem raiseFramer_txLen (e : Status) : (raiseError .framer e s).txLen = s.txLen := rfl
@[simp] theorem raiseFramer_encOutcome (e : Status) : (raiseError .framer e s).encOutcome = s.encOutcome := rfl
@[simp] theorem raiseFramer_answer (e : Status) : (raiseError .framer e s).answer = s.answer := rfl
@[simp] theorem raiseFramer_respOutcome (e : Status) : (raiseError .framer e s).respOutcome = s.respOutcome := rfl
@[simp] theorem raiseFramer_tq (e : Status) : (raiseError .framer e s).tq = s.tq := rfl
@[simp] theorem raiseFramer_lineOut (e : Status) : (raiseError .framer e s).lineOut = s.lineOut := rfl
@[simp] theorem raiseFramer_host (e : Status) : (raiseError .framer e s).host = s.host := rfl
@[simp] theorem raiseFramer_identity (e : Status) : (raiseError .framer e s).identity = s.identity := rfl
@[simp] theorem raiseFramer_schedule (e : Status) : (raiseError .framer e s).schedule = s.schedule := rfl
@[simp] theorem raiseFramer_freeCount (e : Status) : (raiseError .framer e s).freeCount = s.freeCount + 1 := rfl

@[simp] theorem storeFrame_cfg (f : List Byte) : (storeFrame f s).cfg = s.cfg := rfl
@[simp] theorem storeFrame_rxState (f : List Byte) : (storeFrame f s).rxState = s.rxState := rfl
@[simp] theorem storeFrame_rxI (f : List Byte) : (storeFrame f s).rxI = s.rxI := rfl
@[simp] theorem storeFrame_rxIb (f : List Byte) : (storeFrame f s).rxIb = s.rxIb := rfl
@[simp] theorem storeFrame_rxDl (f : List Byte) : (storeFrame f s).rxDl = s.rxDl := rfl
@[simp] theorem storeFrame_rxOvf (f : List Byte) : (storeFrame f s).rxOvf = s.rxOvf := rfl
@[simp] theorem storeFrame_rxOutcome (f : List Byte) : (storeFrame f s).rxOutcome = s.rxOutcome := rfl
@[simp] theorem storeFrame_rxbuf (f : List Byte) : (storeFrame f s).rxbuf = s.rxbuf := rfl
@[simp] theorem storeFrame_decAddr (f : List Byte) : (storeFrame f s).decAddr = s.decAddr := rfl
@[simp] theorem storeFrame_decCmd (f : List Byte) : (storeFrame f s).decCmd = s.decCmd := rfl
@[simp] theorem storeFrame_decPlen (f : List Byte) : (storeFrame f s).decPlen = s.decPlen := rfl
@[simp] theorem storeFrame_txbuf (f : List Byte) : (storeFrame f s).txbuf = Memory.writeAll [] 0 f := rfl
@[simp] theorem storeFrame_txLen (f : List Byte) : (storeFrame f s).txLen = BitVec.ofNat 16 f.length := rfl
@[simp] theorem storeFrame_encOutcome (f : List Byte) : (storeFrame f s).encOutcome = .ok := rfl
@[simp] theorem storeFrame_answer (f : List Byte) : (storeFrame f s).answer = .encoded f := rfl
@[simp] theorem storeFrame_respOutcome (f : List Byte) : (storeFrame f s).respOutcome = .ok := rfl
@[simp] theorem storeFrame_tq (f : List Byte) : (storeFrame f s).tq = s.tq := rfl
@[simp] theorem storeFrame_lineOut (f : List Byte) : (storeFrame f s).lineOut = s.lineOut := rfl
@[simp] theorem storeFrame_host (f : List Byte) : (storeFrame f s).host = s.host := rfl
@[simp] theorem storeFrame_identity (f : List Byte) : (storeFrame f s).identity = s.identity := rfl
@[simp] theorem storeFrame_schedule (f : List Byte) : (storeFrame f s).schedule = s.schedule := rfl
@[simp] theorem storeFrame_freeCount (f : List Byte) : (storeFrame f s).freeCount = s.freeCount := rfl

@[simp] theorem tWrite_cfg (bytes : List Byte) : (tWrite bytes s).cfg = s.cfg := rfl
@[simp] theorem tWrite_rxState (bytes : List Byte) : (tWrite bytes s).rxState = s.rxState := rfl
@[simp] theorem tWrite_rxI (bytes : List Byte) : (tWrite bytes s).rxI = s.rxI := rfl
@[simp] theorem tWrite_rxIb (bytes : List Byte) : (tWrite bytes s).rxIb = s.rxIb := rfl
@[simp] theorem tWrite_rxDl (bytes : List Byte) : (tWrite bytes s).rxDl = s.rxDl := rfl
@[simp] theorem tWrite_rxOvf (bytes : List Byte) : (tWrite bytes s).rxOvf = s.rxOvf := rfl
@[simp] theorem tWrite_rxOutcome (bytes : List Byte) : (tWrite bytes s).rxOutcome = s.rxOutcome := rfl
@[simp] theorem tWrite_rxbuf (bytes : List Byte) : (tWrite bytes s).rxbuf = s.rxbuf := rfl
@[simp] theorem tWrite_decAddr (bytes : List Byte) : (tWrite bytes s).decAddr = s.decAddr := rfl
@[simp] theorem tWrite_decCmd (bytes : List Byte) : (tWrite bytes s).decCmd = s.decCmd := rfl
@[simp] theorem tWrite_decPlen (bytes : List Byte) : (tWrite bytes s).decPlen = s.decPlen := rfl
@[simp] theorem tWrite_txbuf (bytes : List Byte) : (tWrite bytes s).txbuf = s.txbuf := rfl
@[simp] theorem tWrite_txLen (bytes : List Byte) : (tWrite bytes s).txLen = s.txLen := rfl
@[simp] theorem tWrite_encOutcome (bytes : List Byte) : (tWrite bytes s).encOutcome = s.encOutcome := rfl
@[simp] theorem tWrite_answer (bytes : List Byte) : (tWrite bytes s).answer = s.answer := rfl
@[simp] theorem tWrite_respOutcome (bytes : List Byte) : (tWrite bytes s).respOutcome = s.respOutcome := rfl
@[simp] theorem tWrite_tq (bytes : List Byte) : (tWrite bytes s).tq = s.tq := rfl
@[simp] theorem tWrite_lineOut (bytes : List Byte) : (tWrite bytes s).lineOut = s.lineOut ++ bytes := rfl
@[simp] theorem tWrite_host (bytes : List Byte) : (tWrite bytes s).host = s.host := rfl
@[simp] theorem tWrite_identity (bytes : List Byte) : (tWrite bytes s).identity = s.identity := rfl
@[simp] theorem tWrite_schedule (bytes : List Byte) : (tWrite bytes s).schedule = s.schedule := rfl
@[simp] theorem tWrite_freeCount (bytes : List Byte) : (tWrite bytes s).freeCount = s.freeCount := rfl

@[simp] theorem tDiscard_cfg : (tDiscard s).cfg = s.cfg := rfl
@[simp] theorem tDiscard_rxState : (tDiscard s).rxState = s.rxState := rfl
@[simp] theorem tDiscard_rxI : (tDiscard s).rxI = s.rxI := rfl
@[simp] theorem tDiscard_rxIb : (tDiscard s).rxIb = s.rxIb := rfl
@[simp] theorem tDiscard_rxDl : (tDiscard s).rxDl = s.rxDl := rfl
@[simp] theorem tDiscard_rxOvf : (tDiscard s).rxOvf = s.rxOvf := rfl
@[simp] theorem tDiscard_rxOutcome : (tDiscard s).rxOutcome = s.rxOutcome := rfl
@[simp] theorem tDiscard_rxbuf : (tDiscard s).rxbuf = s.rxbuf := rfl
@[simp] theorem tDiscard_decAddr : (tDiscard s).decAddr = s.decAddr := rfl
@[simp] theorem tDiscard_decCmd : (tDiscard s).decCmd = s.decCmd := rfl
@[simp] theorem tDiscard_decPlen : (tDiscard s).decPlen = s.decPlen := rfl
@[simp] theorem tDiscard_txbuf : (tDiscard s).txbuf = s.txbuf := rfl
@[simp] theorem tDiscard_txLen : (tDiscard s).txLen = s.txLen := rfl
@[simp] theorem tDiscard_encOutcome : (tDiscard s).encOutcome = s.encOutcome := rfl
@[simp] theorem tDiscard_answer : (tDiscard s).answer = s.answer := rfl
@[simp] theorem tDiscard_respOutcome : (tDiscard s).respOutcome = s.respOutcome := rfl
@[simp] theorem tDiscard_tq : (tDiscard s).tq = [] := rfl
@[simp] theorem tDiscard_lineOut : (tDiscard s).lineOut = s.lineOut := rfl
@[simp] theorem tDiscard_host : (tDiscard s).host = s.host := rfl
@[simp] theorem tDiscard_identity : (tDiscard s).identity = s.identity := rfl
@[simp] theorem tDiscard_schedule : (tDiscard s).schedule = s.schedule := rfl
@[simp] theorem tDiscard_freeCount : (tDiscard s).freeCount = s.freeCount := rfl

@[simp] theorem arrive_cfg (bytes : List Byte) : (arrive bytes s).cfg = s.cfg := rfl
@[simp] theorem arrive_rxState (bytes : List Byte) : (arrive bytes s).rxState = s.rxState := rfl
@[simp] theorem arrive_rxI (bytes : List Byte) : (arrive bytes s).rxI = s.rxI := rfl
@[simp] theorem arrive_rxIb (bytes : List Byte) : (arrive bytes s).rxIb = s.rxIb := rfl
@[simp] theorem arrive_rxDl (bytes : List Byte) : (arrive bytes s).rxDl = s.rxDl := rfl
@[simp] theorem arrive_rxOvf (bytes : List Byte) : (arrive bytes s).rxOvf = s.rxOvf := rfl
@[simp] theorem arrive_rxOutcome (bytes : List Byte) : (arrive bytes s).rxOutcome = s.rxOutcome := rfl
@[simp] theorem arrive_rxbuf (bytes : List Byte) : (arrive bytes s).rxbuf = s.rxbuf := rfl
@[simp] theorem arrive_decAddr (bytes : List Byte) : (arrive bytes s).decAddr = s.decAddr := rfl
@[simp] theorem arrive_decCmd (bytes : List Byte) : (arrive bytes s).decCmd = s.decCmd := rfl
@[simp] theorem arrive_decPlen (bytes : List Byte) : (arrive bytes s).decPlen = s.decPlen := rfl
@[simp] theorem arrive_txbuf (bytes : List Byte) : (arrive bytes s).txbuf = s.txbuf := rfl
@[simp] theorem arrive_txLen (bytes : List Byte) : (arrive bytes s).txLen = s.txLen := rfl
@[simp] theorem arrive_encOutcome (bytes : List Byte) : (arrive bytes s).encOutcome = s.encOutcome := rfl
@[simp] theorem arrive_answer (bytes : List Byte) : (arrive bytes s).answer = s.answer := rfl
@[simp] theorem arrive_respOutcome (bytes : List Byte) : (arrive bytes s).respOutcome = s.respOutcome := rfl
@[simp] theorem arrive_tq (bytes : List Byte) : (arrive bytes s).tq = s.tq ++ bytes := rfl
@[simp] theorem arrive_lineOut (bytes : List Byte) : (arrive bytes s).lineOut = s.lineOut := rfl
@[simp] theorem arrive_host (bytes : List Byte) : (arrive bytes s).host = s.host := rfl
@[simp] theorem arrive_identity (bytes : List Byte) : (arrive bytes s).identity = s.identity := rfl
@[simp] theorem arrive_schedule (bytes : List Byte) : (arrive bytes s).schedule = s.schedule := rfl
@[simp] theorem arrive_freeCount (bytes : List Byte) : (arrive bytes s).freeCount = s.freeCount := rfl

@[simp] theorem hostWaits_cfg (call : Call) : (hostWaits call s).cfg = s.cfg := rfl
@[simp] theorem hostWaits_rxState (call : Call) : (hostWaits call s).rxState = s.rxState := rfl
@[simp] theorem hostWaits_rxI (call : Call) : (hostWaits call s).rxI = s.rxI := rfl
@[simp] theorem hostWaits_rxIb (call : Call) : (hostWaits call s).rxIb = s.rxIb := rfl
@[simp] theorem hostWaits_rxDl (call : Call) : (hostWaits call s).rxDl = s.rxDl := rfl
@[simp] theorem hostWaits_rxOvf (call : Call) : (hostWaits call s).rxOvf = s.rxOvf := rfl
@[simp] theorem hostWaits_rxOutcome (call : Call) : (hostWaits call s).rxOutcome = s.rxOutcome := rfl
@[simp] theorem hostWaits_rxbuf (call : Call) : (hostWaits call s).rxbuf = s.rxbuf := rfl
@[simp] theorem hostWaits_decAddr (call : Call) : (hostWaits call s).decAddr = s.decAddr := rfl
@[simp] theorem hostWaits_decCmd (call : Call) : (hostWaits call s).decCmd = s.decCmd := rfl
@[simp] theorem hostWaits_decPlen (call : Call) : (hostWaits call s).decPlen = s.decPlen := rfl
@[simp] theorem hostWaits_txbuf (call : Call) : (hostWaits call s).txbuf = s.txbuf := rfl
@[simp] theorem hostWaits_txLen (call : Call) : (hostWaits call s).txLen = s.txLen := rfl
@[simp] theorem hostWaits_encOutcome (call : Call) : (hostWaits call s).encOutcome = s.encOutcome := rfl
@[simp] theorem hostWaits_answer (call : Call) : (hostWaits call s).answer = s.answer := rfl
@[simp] theorem hostWaits_respOutcome (call : Call) : (hostWaits call s).respOutcome = s.respOutcome := rfl
@[simp] theorem hostWaits_tq (call : Call) : (hostWaits call s).tq = s.tq := rfl
@[simp] theorem hostWaits_lineOut (call : Call) : (hostWaits call s).lineOut = s.lineOut := rfl
@[simp] theorem hostWaits_host (call : Call) : (hostWaits call s).host = .waiting call := rfl
@[simp] theorem hostWaits_identity (call : Call) : (hostWaits call s).identity = s.identity := rfl
@[simp] theorem hostWaits_schedule (call : Call) : (hostWaits call s).schedule = s.schedule := rfl
@[simp] theorem hostWaits_freeCount (call : Call) : (hostWaits call s).freeCount = s.freeCount := rfl

@[simp] theorem armFramer_cfg (d : Word) : (armFramer d s).cfg = s.cfg := rfl
@[simp] theorem armFramer_rxState (d : Word) : (armFramer d s).rxState = .run := rfl
@[simp] theorem armFramer_rxI (d : Word) : (armFramer d s).rxI = 0#16 := rfl
@[simp] theorem armFramer_rxIb (d : Word) : (armFramer d s).rxIb = s.cfg.ibWindow := rfl
@[simp] theorem armFramer_rxDl (d : Word) : (armFramer d s).rxDl = d := rfl
@[simp] theorem armFramer_rxOvf (d : Word) : (armFramer d s).rxOvf = false := rfl
@[simp] theorem armFramer_rxOutcome (d : Word) : (armFramer d s).rxOutcome = .none := rfl
@[simp] theorem armFramer_rxbuf (d : Word) : (armFramer d s).rxbuf = [] := rfl
@[simp] theorem armFramer_decAddr (d : Word) : (armFramer d s).decAddr = Config.freeDecAddr s.freeCount := rfl
@[simp] theorem armFramer_decCmd (d : Word) : (armFramer d s).decCmd = Config.freeDecCmd s.freeCount := rfl
@[simp] theorem armFramer_decPlen (d : Word) : (armFramer d s).decPlen = Config.freeDecPlen s.freeCount := rfl
@[simp] theorem armFramer_txbuf (d : Word) : (armFramer d s).txbuf = s.txbuf := rfl
@[simp] theorem armFramer_txLen (d : Word) : (armFramer d s).txLen = s.txLen := rfl
@[simp] theorem armFramer_encOutcome (d : Word) : (armFramer d s).encOutcome = s.encOutcome := rfl
@[simp] theorem armFramer_answer (d : Word) : (armFramer d s).answer = .nothing := rfl
@[simp] theorem armFramer_respOutcome (d : Word) : (armFramer d s).respOutcome = doneOutcome s.freeCount := rfl
@[simp] theorem armFramer_tq (d : Word) : (armFramer d s).tq = s.tq := rfl
@[simp] theorem armFramer_lineOut (d : Word) : (armFramer d s).lineOut = s.lineOut := rfl
@[simp] theorem armFramer_host (d : Word) : (armFramer d s).host = s.host := rfl
@[simp] theorem armFramer_identity (d : Word) : (armFramer d s).identity = s.identity := rfl
@[simp] theorem armFramer_schedule (d : Word) : (armFramer d s).schedule = s.schedule := rfl
@[simp] theorem armFramer_freeCount (d : Word) : (armFramer d s).freeCount = s.freeCount + 1 := rfl

@[simp] theorem bindMessage_cfg (m : Message) : (bindMessage m s).cfg = s.cfg := rfl
@[simp] theorem bindMessage_rxState (m : Message) : (bindMessage m s).rxState = s.rxState := rfl
@[simp] theorem bindMessage_rxI (m : Message) : (bindMessage m s).rxI = s.rxI := rfl
@[simp] theorem bindMessage_rxIb (m : Message) : (bindMessage m s).rxIb = s.rxIb := rfl
@[simp] theorem bindMessage_rxDl (m : Message) : (bindMessage m s).rxDl = s.rxDl := rfl
@[simp] theorem bindMessage_rxOvf (m : Message) : (bindMessage m s).rxOvf = s.rxOvf := rfl
@[simp] theorem bindMessage_rxOutcome (m : Message) : (bindMessage m s).rxOutcome = s.rxOutcome := rfl
@[simp] theorem bindMessage_rxbuf (m : Message) : (bindMessage m s).rxbuf = s.rxbuf := rfl
@[simp] theorem bindMessage_decAddr (m : Message) : (bindMessage m s).decAddr = m.address := rfl
@[simp] theorem bindMessage_decCmd (m : Message) : (bindMessage m s).decCmd = m.command := rfl
@[simp] theorem bindMessage_decPlen (m : Message) : (bindMessage m s).decPlen = s.rxI - 5#16 := rfl
@[simp] theorem bindMessage_txbuf (m : Message) : (bindMessage m s).txbuf = s.txbuf := rfl
@[simp] theorem bindMessage_txLen (m : Message) : (bindMessage m s).txLen = s.txLen := rfl
@[simp] theorem bindMessage_encOutcome (m : Message) : (bindMessage m s).encOutcome = s.encOutcome := rfl
@[simp] theorem bindMessage_answer (m : Message) : (bindMessage m s).answer = s.answer := rfl
@[simp] theorem bindMessage_respOutcome (m : Message) : (bindMessage m s).respOutcome = s.respOutcome := rfl
@[simp] theorem bindMessage_tq (m : Message) : (bindMessage m s).tq = s.tq := rfl
@[simp] theorem bindMessage_lineOut (m : Message) : (bindMessage m s).lineOut = s.lineOut := rfl
@[simp] theorem bindMessage_host (m : Message) : (bindMessage m s).host = s.host := rfl
@[simp] theorem bindMessage_identity (m : Message) : (bindMessage m s).identity = s.identity := rfl
@[simp] theorem bindMessage_schedule (m : Message) : (bindMessage m s).schedule = s.schedule := rfl
@[simp] theorem bindMessage_freeCount (m : Message) : (bindMessage m s).freeCount = s.freeCount := rfl

@[simp] theorem raiseToHost_cfg (e : HostError) : (raiseToHost e s).cfg = s.cfg := rfl
@[simp] theorem raiseToHost_rxState (e : HostError) : (raiseToHost e s).rxState = s.rxState := rfl
@[simp] theorem raiseToHost_rxI (e : HostError) : (raiseToHost e s).rxI = s.rxI := rfl
@[simp] theorem raiseToHost_rxIb (e : HostError) : (raiseToHost e s).rxIb = s.rxIb := rfl
@[simp] theorem raiseToHost_rxDl (e : HostError) : (raiseToHost e s).rxDl = s.rxDl := rfl
@[simp] theorem raiseToHost_rxOvf (e : HostError) : (raiseToHost e s).rxOvf = s.rxOvf := rfl
@[simp] theorem raiseToHost_rxOutcome (e : HostError) : (raiseToHost e s).rxOutcome = s.rxOutcome := rfl
@[simp] theorem raiseToHost_rxbuf (e : HostError) : (raiseToHost e s).rxbuf = s.rxbuf := rfl
@[simp] theorem raiseToHost_decAddr (e : HostError) : (raiseToHost e s).decAddr = s.decAddr := rfl
@[simp] theorem raiseToHost_decCmd (e : HostError) : (raiseToHost e s).decCmd = s.decCmd := rfl
@[simp] theorem raiseToHost_decPlen (e : HostError) : (raiseToHost e s).decPlen = s.decPlen := rfl
@[simp] theorem raiseToHost_txbuf (e : HostError) : (raiseToHost e s).txbuf = s.txbuf := rfl
@[simp] theorem raiseToHost_txLen (e : HostError) : (raiseToHost e s).txLen = s.txLen := rfl
@[simp] theorem raiseToHost_encOutcome (e : HostError) : (raiseToHost e s).encOutcome = s.encOutcome := rfl
@[simp] theorem raiseToHost_answer (e : HostError) : (raiseToHost e s).answer = .raised e := rfl
@[simp] theorem raiseToHost_respOutcome (e : HostError) : (raiseToHost e s).respOutcome = s.respOutcome := rfl
@[simp] theorem raiseToHost_tq (e : HostError) : (raiseToHost e s).tq = s.tq := rfl
@[simp] theorem raiseToHost_lineOut (e : HostError) : (raiseToHost e s).lineOut = s.lineOut := rfl
@[simp] theorem raiseToHost_host (e : HostError) : (raiseToHost e s).host = .idle := rfl
@[simp] theorem raiseToHost_identity (e : HostError) : (raiseToHost e s).identity = s.identity := rfl
@[simp] theorem raiseToHost_schedule (e : HostError) : (raiseToHost e s).schedule = s.schedule := rfl
@[simp] theorem raiseToHost_freeCount (e : HostError) : (raiseToHost e s).freeCount = s.freeCount := rfl

@[simp] theorem returnOk_cfg (m : Message) : (returnOk m s).cfg = s.cfg := rfl
@[simp] theorem returnOk_rxState (m : Message) : (returnOk m s).rxState = s.rxState := rfl
@[simp] theorem returnOk_rxI (m : Message) : (returnOk m s).rxI = s.rxI := rfl
@[simp] theorem returnOk_rxIb (m : Message) : (returnOk m s).rxIb = s.rxIb := rfl
@[simp] theorem returnOk_rxDl (m : Message) : (returnOk m s).rxDl = s.rxDl := rfl
@[simp] theorem returnOk_rxOvf (m : Message) : (returnOk m s).rxOvf = s.rxOvf := rfl
@[simp] theorem returnOk_rxOutcome (m : Message) : (returnOk m s).rxOutcome = s.rxOutcome := rfl
@[simp] theorem returnOk_rxbuf (m : Message) : (returnOk m s).rxbuf = s.rxbuf := rfl
@[simp] theorem returnOk_decAddr (m : Message) : (returnOk m s).decAddr = s.decAddr := rfl
@[simp] theorem returnOk_decCmd (m : Message) : (returnOk m s).decCmd = s.decCmd := rfl
@[simp] theorem returnOk_decPlen (m : Message) : (returnOk m s).decPlen = s.decPlen := rfl
@[simp] theorem returnOk_txbuf (m : Message) : (returnOk m s).txbuf = s.txbuf := rfl
@[simp] theorem returnOk_txLen (m : Message) : (returnOk m s).txLen = s.txLen := rfl
@[simp] theorem returnOk_encOutcome (m : Message) : (returnOk m s).encOutcome = s.encOutcome := rfl
@[simp] theorem returnOk_answer (m : Message) : (returnOk m s).answer = .returned m.payload m.address := rfl
@[simp] theorem returnOk_respOutcome (m : Message) : (returnOk m s).respOutcome = s.respOutcome := rfl
@[simp] theorem returnOk_tq (m : Message) : (returnOk m s).tq = s.tq := rfl
@[simp] theorem returnOk_lineOut (m : Message) : (returnOk m s).lineOut = s.lineOut := rfl
@[simp] theorem returnOk_host (m : Message) : (returnOk m s).host = .idle := rfl
@[simp] theorem returnOk_identity (m : Message) : (returnOk m s).identity = s.identity := rfl
@[simp] theorem returnOk_schedule (m : Message) : (returnOk m s).schedule = s.schedule := rfl
@[simp] theorem returnOk_freeCount (m : Message) : (returnOk m s).freeCount = s.freeCount := rfl

@[simp] theorem cacheIdentity_cfg (m : Message) : (cacheIdentity m s).cfg = s.cfg := rfl
@[simp] theorem cacheIdentity_rxState (m : Message) : (cacheIdentity m s).rxState = s.rxState := rfl
@[simp] theorem cacheIdentity_rxI (m : Message) : (cacheIdentity m s).rxI = s.rxI := rfl
@[simp] theorem cacheIdentity_rxIb (m : Message) : (cacheIdentity m s).rxIb = s.rxIb := rfl
@[simp] theorem cacheIdentity_rxDl (m : Message) : (cacheIdentity m s).rxDl = s.rxDl := rfl
@[simp] theorem cacheIdentity_rxOvf (m : Message) : (cacheIdentity m s).rxOvf = s.rxOvf := rfl
@[simp] theorem cacheIdentity_rxOutcome (m : Message) : (cacheIdentity m s).rxOutcome = s.rxOutcome := rfl
@[simp] theorem cacheIdentity_rxbuf (m : Message) : (cacheIdentity m s).rxbuf = s.rxbuf := rfl
@[simp] theorem cacheIdentity_decAddr (m : Message) : (cacheIdentity m s).decAddr = s.decAddr := rfl
@[simp] theorem cacheIdentity_decCmd (m : Message) : (cacheIdentity m s).decCmd = s.decCmd := rfl
@[simp] theorem cacheIdentity_decPlen (m : Message) : (cacheIdentity m s).decPlen = s.decPlen := rfl
@[simp] theorem cacheIdentity_txbuf (m : Message) : (cacheIdentity m s).txbuf = s.txbuf := rfl
@[simp] theorem cacheIdentity_txLen (m : Message) : (cacheIdentity m s).txLen = s.txLen := rfl
@[simp] theorem cacheIdentity_encOutcome (m : Message) : (cacheIdentity m s).encOutcome = s.encOutcome := rfl
@[simp] theorem cacheIdentity_answer (m : Message) : (cacheIdentity m s).answer = s.answer := rfl
@[simp] theorem cacheIdentity_respOutcome (m : Message) : (cacheIdentity m s).respOutcome = s.respOutcome := rfl
@[simp] theorem cacheIdentity_tq (m : Message) : (cacheIdentity m s).tq = s.tq := rfl
@[simp] theorem cacheIdentity_lineOut (m : Message) : (cacheIdentity m s).lineOut = s.lineOut := rfl
@[simp] theorem cacheIdentity_host (m : Message) : (cacheIdentity m s).host = s.host := rfl
@[simp] theorem cacheIdentity_schedule (m : Message) : (cacheIdentity m s).schedule = s.schedule := rfl
@[simp] theorem cacheIdentity_freeCount (m : Message) : (cacheIdentity m s).freeCount = s.freeCount := rfl

@[simp] theorem updateIdentity_cfg (f : Identity → Identity) : (updateIdentity f s).cfg = s.cfg := rfl
@[simp] theorem updateIdentity_rxState (f : Identity → Identity) : (updateIdentity f s).rxState = s.rxState := rfl
@[simp] theorem updateIdentity_rxI (f : Identity → Identity) : (updateIdentity f s).rxI = s.rxI := rfl
@[simp] theorem updateIdentity_rxIb (f : Identity → Identity) : (updateIdentity f s).rxIb = s.rxIb := rfl
@[simp] theorem updateIdentity_rxDl (f : Identity → Identity) : (updateIdentity f s).rxDl = s.rxDl := rfl
@[simp] theorem updateIdentity_rxOvf (f : Identity → Identity) : (updateIdentity f s).rxOvf = s.rxOvf := rfl
@[simp] theorem updateIdentity_rxOutcome (f : Identity → Identity) : (updateIdentity f s).rxOutcome = s.rxOutcome := rfl
@[simp] theorem updateIdentity_rxbuf (f : Identity → Identity) : (updateIdentity f s).rxbuf = s.rxbuf := rfl
@[simp] theorem updateIdentity_decAddr (f : Identity → Identity) : (updateIdentity f s).decAddr = s.decAddr := rfl
@[simp] theorem updateIdentity_decCmd (f : Identity → Identity) : (updateIdentity f s).decCmd = s.decCmd := rfl
@[simp] theorem updateIdentity_decPlen (f : Identity → Identity) : (updateIdentity f s).decPlen = s.decPlen := rfl
@[simp] theorem updateIdentity_txbuf (f : Identity → Identity) : (updateIdentity f s).txbuf = s.txbuf := rfl
@[simp] theorem updateIdentity_txLen (f : Identity → Identity) : (updateIdentity f s).txLen = s.txLen := rfl
@[simp] theorem updateIdentity_encOutcome (f : Identity → Identity) : (updateIdentity f s).encOutcome = s.encOutcome := rfl
@[simp] theorem updateIdentity_answer (f : Identity → Identity) : (updateIdentity f s).answer = s.answer := rfl
@[simp] theorem updateIdentity_respOutcome (f : Identity → Identity) : (updateIdentity f s).respOutcome = s.respOutcome := rfl
@[simp] theorem updateIdentity_tq (f : Identity → Identity) : (updateIdentity f s).tq = s.tq := rfl
@[simp] theorem updateIdentity_lineOut (f : Identity → Identity) : (updateIdentity f s).lineOut = s.lineOut := rfl
@[simp] theorem updateIdentity_host (f : Identity → Identity) : (updateIdentity f s).host = s.host := rfl
@[simp] theorem updateIdentity_identity (f : Identity → Identity) : (updateIdentity f s).identity = s.identity.map f := rfl
@[simp] theorem updateIdentity_schedule (f : Identity → Identity) : (updateIdentity f s).schedule = s.schedule := rfl
@[simp] theorem updateIdentity_freeCount (f : Identity → Identity) : (updateIdentity f s).freeCount = s.freeCount := rfl

@[simp] theorem applyReset_cfg : (applyReset s).cfg = s.cfg := rfl
@[simp] theorem applyReset_rxState : (applyReset s).rxState = .idle := rfl
@[simp] theorem applyReset_rxI : (applyReset s).rxI = 0#16 := rfl
@[simp] theorem applyReset_rxIb : (applyReset s).rxIb = 0#16 := rfl
@[simp] theorem applyReset_rxDl : (applyReset s).rxDl = 0#16 := rfl
@[simp] theorem applyReset_rxOvf : (applyReset s).rxOvf = false := rfl
@[simp] theorem applyReset_rxOutcome : (applyReset s).rxOutcome = .none := rfl
@[simp] theorem applyReset_rxbuf : (applyReset s).rxbuf = [] := rfl
@[simp] theorem applyReset_decAddr : (applyReset s).decAddr = Config.freeDecAddr s.freeCount := rfl
@[simp] theorem applyReset_decCmd : (applyReset s).decCmd = Config.freeDecCmd s.freeCount := rfl
@[simp] theorem applyReset_decPlen : (applyReset s).decPlen = Config.freeDecPlen s.freeCount := rfl
@[simp] theorem applyReset_txbuf : (applyReset s).txbuf = [] := rfl
@[simp] theorem applyReset_txLen : (applyReset s).txLen = 0#16 := rfl
@[simp] theorem applyReset_encOutcome : (applyReset s).encOutcome = .none := rfl
@[simp] theorem applyReset_answer : (applyReset s).answer = .nothing := rfl
@[simp] theorem applyReset_respOutcome : (applyReset s).respOutcome = .none := rfl
@[simp] theorem applyReset_tq : (applyReset s).tq = s.tq := rfl
@[simp] theorem applyReset_lineOut : (applyReset s).lineOut = s.lineOut := rfl
@[simp] theorem applyReset_host : (applyReset s).host = .idle := rfl
@[simp] theorem applyReset_identity : (applyReset s).identity = s.identity := rfl
@[simp] theorem applyReset_schedule : (applyReset s).schedule = s.schedule := rfl
@[simp] theorem applyReset_freeCount : (applyReset s).freeCount = s.freeCount + 1 := rfl

@[simp] theorem takeStimulus_cfg (st : Stimulus) (rest : List Stimulus) : (takeStimulus st rest s).cfg = s.cfg := rfl
@[simp] theorem takeStimulus_rxState (st : Stimulus) (rest : List Stimulus) : (takeStimulus st rest s).rxState = s.rxState := rfl
@[simp] theorem takeStimulus_rxI (st : Stimulus) (rest : List Stimulus) : (takeStimulus st rest s).rxI = s.rxI := rfl
@[simp] theorem takeStimulus_rxIb (st : Stimulus) (rest : List Stimulus) : (takeStimulus st rest s).rxIb = s.rxIb := rfl
@[simp] theorem takeStimulus_rxDl (st : Stimulus) (rest : List Stimulus) : (takeStimulus st rest s).rxDl = s.rxDl := rfl
@[simp] theorem takeStimulus_rxOvf (st : Stimulus) (rest : List Stimulus) : (takeStimulus st rest s).rxOvf = s.rxOvf := rfl
@[simp] theorem takeStimulus_rxOutcome (st : Stimulus) (rest : List Stimulus) : (takeStimulus st rest s).rxOutcome = s.rxOutcome := rfl
@[simp] theorem takeStimulus_rxbuf (st : Stimulus) (rest : List Stimulus) : (takeStimulus st rest s).rxbuf = s.rxbuf := rfl
@[simp] theorem takeStimulus_decAddr (st : Stimulus) (rest : List Stimulus) : (takeStimulus st rest s).decAddr = s.decAddr := rfl
@[simp] theorem takeStimulus_decCmd (st : Stimulus) (rest : List Stimulus) : (takeStimulus st rest s).decCmd = s.decCmd := rfl
@[simp] theorem takeStimulus_decPlen (st : Stimulus) (rest : List Stimulus) : (takeStimulus st rest s).decPlen = s.decPlen := rfl
@[simp] theorem takeStimulus_txbuf (st : Stimulus) (rest : List Stimulus) : (takeStimulus st rest s).txbuf = s.txbuf := rfl
@[simp] theorem takeStimulus_txLen (st : Stimulus) (rest : List Stimulus) : (takeStimulus st rest s).txLen = s.txLen := rfl
@[simp] theorem takeStimulus_encOutcome (st : Stimulus) (rest : List Stimulus) : (takeStimulus st rest s).encOutcome = s.encOutcome := rfl
@[simp] theorem takeStimulus_answer (st : Stimulus) (rest : List Stimulus) : (takeStimulus st rest s).answer = s.answer := rfl
@[simp] theorem takeStimulus_respOutcome (st : Stimulus) (rest : List Stimulus) : (takeStimulus st rest s).respOutcome = s.respOutcome := rfl
@[simp] theorem takeStimulus_tq (st : Stimulus) (rest : List Stimulus) : (takeStimulus st rest s).tq = s.tq ++ st.arrivals := rfl
@[simp] theorem takeStimulus_lineOut (st : Stimulus) (rest : List Stimulus) : (takeStimulus st rest s).lineOut = s.lineOut := rfl
@[simp] theorem takeStimulus_host (st : Stimulus) (rest : List Stimulus) : (takeStimulus st rest s).host = s.host := rfl
@[simp] theorem takeStimulus_identity (st : Stimulus) (rest : List Stimulus) : (takeStimulus st rest s).identity = s.identity := rfl
@[simp] theorem takeStimulus_schedule (st : Stimulus) (rest : List Stimulus) : (takeStimulus st rest s).schedule = rest := rfl
@[simp] theorem takeStimulus_freeCount (st : Stimulus) (rest : List Stimulus) : (takeStimulus st rest s).freeCount = s.freeCount := rfl

@[simp] theorem afterCountdowns_cfg : (s.afterCountdowns).cfg = s.cfg := rfl
@[simp] theorem afterCountdowns_rxState : (s.afterCountdowns).rxState = s.rxState := rfl
@[simp] theorem afterCountdowns_rxI : (s.afterCountdowns).rxI = s.countAfterPoll := rfl
theorem afterCountdowns_rxIb : (s.afterCountdowns).rxIb = if s.countAfterPoll = 0#16 then s.budgetAfterPoll else s.budgetAfterPoll - 1#16 := rfl
theorem afterCountdowns_rxDl : (s.afterCountdowns).rxDl = if s.rxDl = 0#16 then 0#16 else s.rxDl - 1#16 := rfl
theorem afterCountdowns_rxOvf : (s.afterCountdowns).rxOvf = (s.rxOvf || (decide (s.tq ≠ []) && decide (s.cfg.rxCap ≤ s.rxI.toNat))) := rfl
@[simp] theorem afterCountdowns_rxOutcome : (s.afterCountdowns).rxOutcome = s.rxOutcome := rfl
@[simp] theorem afterCountdowns_rxbuf : (s.afterCountdowns).rxbuf = s.bufferAfterPoll := rfl
@[simp] theorem afterCountdowns_decAddr : (s.afterCountdowns).decAddr = s.decAddr := rfl
@[simp] theorem afterCountdowns_decCmd : (s.afterCountdowns).decCmd = s.decCmd := rfl
@[simp] theorem afterCountdowns_decPlen : (s.afterCountdowns).decPlen = s.decPlen := rfl
@[simp] theorem afterCountdowns_txbuf : (s.afterCountdowns).txbuf = s.txbuf := rfl
@[simp] theorem afterCountdowns_txLen : (s.afterCountdowns).txLen = s.txLen := rfl
@[simp] theorem afterCountdowns_encOutcome : (s.afterCountdowns).encOutcome = s.encOutcome := rfl
@[simp] theorem afterCountdowns_answer : (s.afterCountdowns).answer = s.answer := rfl
@[simp] theorem afterCountdowns_respOutcome : (s.afterCountdowns).respOutcome = s.respOutcome := rfl
@[simp] theorem afterCountdowns_tq : (s.afterCountdowns).tq = s.tq.tail := rfl
@[simp] theorem afterCountdowns_lineOut : (s.afterCountdowns).lineOut = s.lineOut := rfl
@[simp] theorem afterCountdowns_host : (s.afterCountdowns).host = s.host := rfl
@[simp] theorem afterCountdowns_identity : (s.afterCountdowns).identity = s.identity := rfl
@[simp] theorem afterCountdowns_schedule : (s.afterCountdowns).schedule = s.schedule := rfl
@[simp] theorem afterCountdowns_freeCount : (s.afterCountdowns).freeCount = s.freeCount := rfl

end Sys2Proof.Machine
end

