-- ==== Sys2Proof/Laws/Ops.lean ====
section
/-! SUPPORT. What each shared operation can do, said once: provers cite these and do not unfold the operations. -/

namespace Sys2Proof.Machine

@[simp] theorem andThen_next (s : State) (k : State → Result) : andThen (.next s) k = k s := rfl
@[simp] theorem andThen_fault (f : Fault) (k : State → Result) : andThen (.fault f) k = .fault f := rfl
@[simp] theorem andThen_refused (q : Refusal) (k : State → Result) : andThen (.refused q) k = .refused q := rfl

theorem andThen_eq_next (r : Result) (k : State → Result) (t : State) (h : andThen r k = .next t) :
    ∃ s, r = .next s ∧ k s = .next t := by
  cases r with
  | next s => exact ⟨s, rfl, h⟩
  | fault f => cases h
  | refused q => cases h

theorem andThen_eq_fault (r : Result) (k : State → Result) (f : Fault) (h : andThen r k = .fault f) :
    r = .fault f ∨ ∃ s, r = .next s ∧ k s = .fault f := by
  cases r with
  | next s => exact .inr ⟨s, rfl, h⟩
  | fault g => exact .inl (by simpa using h)
  | refused q => cases h

theorem andThen_assoc (r : Result) (k l : State → Result) :
    andThen (andThen r k) l = andThen r fun s => andThen (k s) l := by
  cases r <;> rfl

theorem whenIdle_idle (s : State) (k : State → Result) (h : s.rxState = .idle) : whenIdle s k = k s := by
  simp [whenIdle, h]

theorem whenIdle_run (s : State) (k : State → Result) (h : s.rxState = .run) :
    whenIdle s k = .refused .requestWhileRunning := by
  simp [whenIdle, h]

theorem whenIdle_eq_next (s t : State) (k : State → Result) (h : whenIdle s k = .next t) :
    s.rxState = .idle ∧ k s = .next t := by
  cases hs : s.rxState with
  | idle => exact ⟨rfl, by rwa [whenIdle_idle s k hs] at h⟩
  | run => rw [whenIdle_run s k hs] at h; cases h

theorem whenHostFree_idle (s : State) (k : State → Result) (h : s.host = .idle) : whenHostFree s k = k s := by
  simp [whenHostFree, h]

theorem whenHostFree_eq_next (s t : State) (k : State → Result) (h : whenHostFree s k = .next t) :
    s.host = .idle ∧ k s = .next t := by
  cases hs : s.host with
  | idle => exact ⟨rfl, by rwa [whenHostFree_idle s k hs] at h⟩
  | waiting c => simp [whenHostFree, hs] at h

/-- The code of a request that has no errors is one of the two that are no error. -/
theorem doneOutcome_cases (n : Nat) : doneOutcome n = .none ∨ doneOutcome n = .ok := by
  unfold doneOutcome; split <;> simp

/-- Issuing `RX_START` goes on only from `IDLE` with a legal deadline, and then arms the framer. -/
theorem startReceive_eq_next (d : Word) (s t : State) (h : startReceive d s = .next t) :
    s.rxState = .idle ∧ 1 ≤ d.toNat ∧ t = armFramer d s := by
  obtain ⟨hs, h⟩ := whenIdle_eq_next _ _ _ h
  split at h
  · next hd => exact ⟨hs, of_decide_eq_true hd, by cases h; rfl⟩
  · cases h

theorem startReceive_of_legal (d : Word) (s : State) (hs : s.rxState = .idle) (hd : 1 ≤ d.toNat) :
    startReceive d s = .next (armFramer d s) := by
  rw [startReceive, whenIdle_idle _ _ hs, if_pos (by simpa [deadlineLegal] using hd)]

theorem startReceive_ne_fault (d : Word) (s : State) (f : Fault) : startReceive d s ≠ .fault f := by
  unfold startReceive whenIdle
  split <;> (try split) <;> simp

/-- Everything `ENCODE` can do to the state. -/
theorem encodeInto_cases (a : Word) (command : Byte) (payload : List Byte) (s : State) :
    (∃ f, encodeFrame s.cfg a command payload = .ok f ∧
      encodeInto a command payload s = storeFrame f s) ∨
    (∃ e, encodeFrame s.cfg a command payload = .error e ∧
      encodeInto a command payload s = raiseError .codec e s) := by
  unfold encodeInto
  cases h : encodeFrame s.cfg a command payload with
  | ok f => exact .inl ⟨f, rfl, rfl⟩
  | error e => exact .inr ⟨e, rfl, rfl⟩

/-- In a state whose defined bytes are `RXBUF[0..RX_I)` the decoder is given exactly them. -/
theorem decodeBuffer_of_prefix (s : State) (h : s.rxbuf.map Prod.fst = List.range s.rxI.toNat) :
    decodeBuffer s = .ok (decodeFrame s.cfg.aw (s.rxbuf.map Prod.snd)) := by
  simp only [decodeBuffer, readSpace, spaceOf, Memory.readRange_of_prefix _ _ h]

theorem one_le_toNat_iff (v : Word) : 1 ≤ v.toNat ↔ ¬ v = 0#16 := by
  rw [← BitVec.toNat_inj]
  simp only [BitVec.toNat_ofNat]
  omega

theorem toNat_eq_zero_iff (v : Word) : v.toNat = 0 ↔ v = 0#16 := by
  rw [← BitVec.toNat_inj]
  rfl

/-- Step 1 with no byte available. -/
theorem tickArrival_nil (s : State) (h : s.tq = []) : tickArrival s = s := by
  simp [tickArrival, tRead, h]

/-- Step 1 with a byte and room (R96). -/
theorem tickArrival_store (s : State) (v : Byte) (rest : List Byte) (h : s.tq = v :: rest)
    (hc : s.rxI.toNat < s.cfg.rxCap) :
    tickArrival s =
      { s with tq := rest, rxbuf := Memory.write s.rxbuf s.rxI.toNat v, rxI := s.rxI + 1#16, rxIb := s.cfg.ibWindow } := by
  have hc' : ¬ s.cfg.rxCap ≤ s.rxI.toNat := by omega
  simp only [tickArrival, tRead, h, overrunFlag, hc', decide_false, Bool.and_false, Bool.or_false]
  rfl

/-- Step 1 with a byte and a full buffer (R98). -/
theorem tickArrival_full (s : State) (v : Byte) (rest : List Byte) (h : s.tq = v :: rest)
    (hc : s.cfg.rxCap ≤ s.rxI.toNat) :
    tickArrival s = { s with tq := rest, rxOvf := true, rxIb := s.cfg.ibWindow } := by
  simp only [tickArrival, tRead, h, overrunFlag, hc, decide_true, Bool.and_true, Bool.or_true]
  rfl

/-- Steps 2 and 3 as one update. -/
theorem tickDeadline_tickInterByte (s : State) :
    tickDeadline (tickInterByte s) =
      { s with rxIb := if s.rxI = 0#16 then s.rxIb else s.rxIb - 1#16
               rxDl := if s.rxDl = 0#16 then 0#16 else s.rxDl - 1#16 } := by
  obtain ⟨⟩ := s
  simp only [tickDeadline, tickInterByte, one_le_toNat_iff, Nat.lt_iff_add_one_le, Nat.zero_add]
  split <;> split <;> simp_all

/-- Steps 1 to 3 of a tick, in one expression per register. -/
theorem tick_countdowns (s : State) : tickDeadline (tickInterByte (tickArrival s)) = s.afterCountdowns := by
  rw [tickDeadline_tickInterByte]
  cases htq : s.tq with
  | nil =>
    rw [tickArrival_nil s htq]
    obtain ⟨⟩ := s
    simp_all [State.afterCountdowns, State.countAfterPoll, State.budgetAfterPoll, State.bufferAfterPoll]
  | cons v rest =>
    by_cases hc : s.rxI.toNat < s.cfg.rxCap
    · rw [tickArrival_store s v rest htq hc]
      simp [State.afterCountdowns, State.countAfterPoll, State.budgetAfterPoll, State.bufferAfterPoll, htq, hc]
    · rw [tickArrival_full s v rest htq (Nat.le_of_not_lt hc)]
      simp [State.afterCountdowns, State.countAfterPoll, State.budgetAfterPoll, State.bufferAfterPoll, htq, hc]
      omega

/-- A tick in `RUN` is step 4 after the countdowns. -/
theorem execRxTick_run (s : State) (h : s.rxState = .run) : execRxTick s = tickTerminate s.afterCountdowns := by
  rw [execRxTick, h]
  exact congrArg tickTerminate (tick_countdowns s)

theorem execRxTick_idle (s : State) (h : s.rxState = .idle) : execRxTick s = .next s := by
  rw [execRxTick, h]

/-- A guarded decrement loses exactly one. -/
theorem toNat_sub_one (v : Word) (h : v ≠ 0#16) : (v - 1#16).toNat = v.toNat - 1 := by
  have : 1 ≤ v.toNat := (one_le_toNat_iff v).2 h
  rw [BitVec.toNat_sub]
  simp
  omega

/-- A tick stores at no index but `RX_I`. -/
theorem read_bufferAfterPoll_ne (s : State) (k : Nat) (h : k ≠ s.rxI.toNat) :
    Memory.read s.bufferAfterPoll k = Memory.read s.rxbuf k := by
  unfold State.bufferAfterPoll
  split
  · rfl
  · split
    · exact Memory.read_write_ne _ _ _ _ h
    · rfl

/-- The guarded up-counter stays within `RXCAP`. -/
theorem countAfterPoll_le (s : State) (h : s.rxI.toNat ≤ s.cfg.rxCap) : s.countAfterPoll.toNat ≤ s.cfg.rxCap := by
  unfold State.countAfterPoll
  have := s.cfg.rxCap_le
  split
  · rw [BitVec.toNat_add]
    simp
    omega
  · exact h

/-- A byte accumulated or available leaves a count that is not zero. -/
theorem countAfterPoll_ne_zero (s : State) (h : 1 ≤ s.rxI.toNat ∨ s.tq ≠ []) : s.countAfterPoll ≠ 0#16 := by
  have := s.cfg.rxCap_le
  have := s.cfg.rxCap_ge
  apply (one_le_toNat_iff _).1
  unfold State.countAfterPoll
  split
  · rw [BitVec.toNat_add]
    simp
    omega
  · next hn =>
    rcases h with h | h
    · exact h
    · have : ¬ s.rxI.toNat < s.cfg.rxCap := fun hh => hn ⟨h, hh⟩
      omega

/-- A tick keeps the defined bytes of `RXBUF` exactly `0 .. RX_I - 1`. -/
theorem map_fst_bufferAfterPoll (s : State) (h : s.rxbuf.map Prod.fst = List.range s.rxI.toNat) :
    s.bufferAfterPoll.map Prod.fst = List.range s.countAfterPoll.toNat := by
  have hcap := s.cfg.rxCap_le
  unfold State.bufferAfterPoll State.countAfterPoll
  cases htq : s.tq with
  | nil => simpa using h
  | cons v rest =>
    simp only [ne_eq, reduceCtorEq, not_false_eq_true, true_and]
    split
    · next hc =>
      have : (s.rxI + 1#16).toNat = s.rxI.toNat + 1 := by
        rw [BitVec.toNat_add]
        simp
        omega
      rw [this]
      exact Memory.map_fst_write_end _ _ _ h
    · exact h

/-- Everything step 4 can do: end by silence, end by the deadline, or go on. -/
theorem tickTerminate_cases (u : State) :
    (u.rxIb = 0#16 ∧ tickTerminate u = endBySilence u) ∨
    (u.rxIb ≠ 0#16 ∧ u.rxDl = 0#16 ∧ u.rxI = 0#16 ∧ tickTerminate u = .next (raiseError .framer .timeout u)) ∨
    (u.rxIb ≠ 0#16 ∧ ¬ (u.rxDl = 0#16 ∧ u.rxI = 0#16) ∧ tickTerminate u = .next u) := by
  have hz : ∀ v : Word, (v.toNat = 0) ↔ v = 0#16 := fun v => by rw [← BitVec.toNat_inj]; rfl
  unfold tickTerminate silenceHolds emptyHolds
  by_cases h1 : u.rxIb = 0#16
  · exact .inl ⟨h1, by simp [h1]⟩
  · by_cases h2 : u.rxDl = 0#16 ∧ u.rxI = 0#16
    · exact .inr (.inl ⟨h1, h2.1, h2.2, by simp [hz, h1, h2.1, h2.2]⟩)
    · refine .inr (.inr ⟨h1, h2, ?_⟩)
      have : ¬ ((decide (u.rxDl = 0#16) && decide (u.rxI = 0#16)) = true) := by simpa using h2
      simp [hz, h1, this]

/-- Everything a termination by silence can do, where `RXBUF[0..RX_I)` is defined. -/
theorem endBySilence_cases (u : State) (h : u.rxbuf.map Prod.fst = List.range u.rxI.toNat) :
    (u.rxOvf = true ∧ endBySilence u = .next (raiseError .framer .rxOverrun u)) ∨
    (u.rxOvf = false ∧ ∃ m, decodeFrame u.cfg.aw (u.rxbuf.map Prod.snd) = .ok m ∧
      endBySilence u = .next { bindMessage m u with rxOutcome := .ok, rxState := .idle }) ∨
    (u.rxOvf = false ∧ ∃ e, decodeFrame u.cfg.aw (u.rxbuf.map Prod.snd) = .error e ∧
      endBySilence u = .next (raiseError .framer e u)) := by
  unfold endBySilence
  rw [decodeBuffer_of_prefix u h]
  cases ho : u.rxOvf with
  | true => exact .inl ⟨rfl, rfl⟩
  | false =>
    cases hd : decodeFrame u.cfg.aw (u.rxbuf.map Prod.snd) with
    | ok m => exact .inr (.inl ⟨rfl, m, rfl, rfl⟩)
    | error e => exact .inr (.inr ⟨rfl, e, rfl, rfl⟩)

/-- Transmit and arm, where `TXBUF[0..TXLEN)` is defined and the framer is idle. -/
theorem transmitAndArm_of_prefix (call : Call) (s : State) (h : s.txbuf.map Prod.fst = List.range s.txLen.toNat)
    (hs : s.rxState = .idle) :
    transmitAndArm call s =
      .next (hostWaits call (armFramer s.cfg.deadlineDefault (tDiscard (tWrite (s.txbuf.map Prod.snd) s)))) := by
  have hd := s.cfg.deadlineDefault_pos
  rw [transmitAndArm, readSpace, spaceOf, Memory.readRange_of_prefix _ _ h]
  simp only
  rw [startReceive_of_legal _ _ (by simpa using hs) hd]
  rfl

/-- Everything steps 1 to 5 of a request can do from a state whose framer is idle. -/
theorem startRequest_cases (call : Call) (a : Word) (command : Byte) (payload : List Byte) (s : State)
    (hs : s.rxState = .idle) :
    (addressInRange s.cfg.aw a = false ∧
      startRequest call a command payload s = .next (raiseToHost (.status .addressOutOfRange) s)) ∨
    (addressInRange s.cfg.aw a = true ∧ payloadInRange s.cfg payload = false ∧
      startRequest call a command payload s =
        .next (raiseToHost (.status .payloadTooLarge) (raiseError .codec .payloadTooLarge s))) ∨
    (∃ f, encodeFrame s.cfg a command payload = .ok f ∧
      startRequest call a command payload s =
        .next (hostWaits call
          (armFramer s.cfg.deadlineDefault (tDiscard (tWrite f (storeFrame f s)))))) := by
  cases ha : addressInRange s.cfg.aw a with
  | false => exact .inl ⟨rfl, by simp [startRequest, ha]⟩
  | true =>
    refine .inr ?_
    rw [startRequest, ha, if_pos rfl, whenIdle_idle _ _ hs]
    rcases encodeInto_cases a command payload s with ⟨f, hf, he⟩ | ⟨e, hf, he⟩
    · refine .inr ⟨f, hf, ?_⟩
      obtain ⟨hl, -, hlt⟩ := length_encodeFrame _ _ _ _ _ hf
      have hpre : (Memory.writeAll [] 0 f).map Prod.fst = List.range (BitVec.ofNat 16 f.length).toNat := by
        rw [Memory.map_fst_writeAll_end f [] 0 rfl, BitVec.toNat_ofNat, Nat.mod_eq_of_lt hlt, Nat.zero_add]
      have hsnd : (Memory.writeAll [] 0 f).map Prod.snd = f := by
        have h1 := Memory.readRange_of_prefix (Memory.writeAll [] 0 f) f.length
          (by simpa using Memory.map_fst_writeAll_end f [] 0 rfl)
        rw [Memory.readRange_writeAll] at h1
        exact (Except.ok.inj h1).symm
      have hok : (storeFrame f s).encOutcome = .ok := rfl
      simp only [he, hok, if_true]
      rw [transmitAndArm_of_prefix call (storeFrame f s) hpre hs]
      simp [hsnd]
    · rcases encodeFrame_eq_error _ _ _ _ _ hf with ⟨h, -⟩ | ⟨-, hp, rfl⟩
      · rw [ha] at h
        cases h
      · exact .inl ⟨rfl, hp, by simp [he]⟩

/-- What the host reads of a received message, where `RXBUF[0..RX_I)` is defined and `DEC_*` are the decoder's. -/
theorem hostReadMessage_of_ok (s : State) (h : s.rxbuf.map Prod.fst = List.range s.rxI.toNat)
    (ho : s.rxOutcome = .ok) (hd : s.decodedOk = true) :
    ∃ m, decodeFrame s.cfg.aw (s.rxbuf.map Prod.snd) = .ok m ∧ s.decAddr = m.address ∧ s.decCmd = m.command ∧
      s.decPlen.toNat = m.payload.length ∧ m.payload.length + 5 = s.rxI.toNat ∧ hostReadMessage s = .ok m := by
  rw [State.decodedOk, decodeBuffer_of_prefix s h] at hd
  cases hm : decodeFrame s.cfg.aw (s.rxbuf.map Prod.snd) with
  | error e => simp [hm] at hd
  | ok m =>
    simp only [hm, Bool.and_eq_true, decide_eq_true_eq] at hd
    obtain ⟨⟨ha, hc⟩, hp⟩ := hd
    obtain ⟨-, hl, hpay⟩ := decodeFrame_eq_ok _ _ _ hm
    have hlen : s.rxbuf.length = s.rxI.toNat := by simpa using congrArg List.length h
    rw [List.length_map, hlen] at hl
    have hrange := (Memory.readRange_eq_ok s.rxbuf 0 s.rxI.toNat _).1 (Memory.readRange_of_prefix _ _ h)
    have hr : Memory.readRange s.rxbuf 3 m.payload.length = .ok m.payload := by
      refine (Memory.readRange_eq_ok _ _ _ _).2 ⟨rfl, fun i hi => ?_⟩
      have := hrange.2 (3 + i) (by omega)
      rw [Nat.zero_add] at this
      rw [this, hpay, List.getElem?_drop, List.getElem?_take_of_lt (by simp only [List.length_map]; omega)]
    refine ⟨m, rfl, ha, hc, hp, hl, ?_⟩
    simp [hostReadMessage, hostReadDec, ho, readSpace, spaceOf, hp, hr, ha, hc]

/-- `resume` does nothing while the host is not blocked or the receive still runs. -/
theorem resume_of_run (s : State) (h : s.rxState = .run) : resume s = .next s := by
  unfold resume
  split
  · next h1 => simp_all
  · rfl

theorem resume_of_host_idle (s : State) (h : s.host = .idle) : resume s = .next s := by
  unfold resume
  split
  · next h1 => simp_all
  · rfl

/-- A blocked call whose receive has ended is completed. -/
theorem resume_waiting (s : State) (call : Call) (hh : s.host = .waiting call) (h : s.rxState = .idle) :
    resume s = completeCall call s := by
  unfold resume
  simp [hh, h]

end Sys2Proof.Machine
end

