-- ==== Sys2Proof/Laws/PerInstr.lean ====
section
/-! SUPPORT. A fact of every instruction as syntax, one lemma per constructor. -/

namespace Sys2Proof.Laws.EncodedPort

/-- The encoder presents an instruction on the port of its row of spec/opcode_table.json. -/
def Statement (i : Instr) : Prop := (encode i).1 = i.format

theorem noRequest : Statement .noRequest := rfl
theorem crc16 (bytes : List Byte) : Statement (.crc16 bytes) := rfl
theorem encode (address : Word) (command : Byte) (payload : List Byte) : Statement (.encode address command payload) := rfl
theorem rxStart (deadline : Word) : Statement (.rxStart deadline) := rfl
theorem rxTick : Statement .rxTick := rfl
theorem decode : Statement .decode := rfl
theorem receive (deadline : Word) : Statement (.receive deadline) := rfl
theorem tAvail : Statement .tAvail := rfl
theorem tRead : Statement .tRead := rfl
theorem tWrite (bytes : List Byte) : Statement (.tWrite bytes) := rfl
theorem tDiscard : Statement .tDiscard := rfl
theorem request (address : Word) (command : Byte) (payload : List Byte) : Statement (.request address command payload) := rfl
theorem localRead : Statement .localRead := rfl
theorem frame (address : Word) (command : Byte) (payload : List Byte) : Statement (.frame address command payload) := rfl
theorem frameMin (address : Word) (command : Byte) : Statement (.frameMin address command) := rfl
theorem cmdD6 (address : Word) (payload : List Byte) : Statement (.cmdD6 address payload) := rfl

end Sys2Proof.Laws.EncodedPort
end

