-- ==== Sys2Proof/Laws/Step.lean ====
section
/-! SUPPORT. Everything one step can do, and runs of steps and of ticks unfolded once. -/

namespace Sys2Proof.Machine

/-- A step idles, runs a decoded word, refuses one, resets, or starts the session or an identity store. -/
theorem step_cases (s : State) :
    (s.schedule = [] ∧ step s = .next s) ∨
    (∃ st rest, s.schedule = st :: rest ∧
      ((∃ f bytes i, st.input = .word f bytes ∧ decode f bytes = .ok i ∧
          step s = andThen (exec i (takeStimulus st rest s)) resume) ∨
       (∃ f bytes e, st.input = .word f bytes ∧ decode f bytes = .error e ∧
          step s = .refused (.undecodable e)) ∨
       (st.input = .reset ∧ step s = .next (applyReset (takeStimulus st rest s))) ∨
       (st.input = .sessionStart ∧ step s = startSession (takeStimulus st rest s)) ∨
       (∃ a c p, st.input = .identityStore a c p ∧ step s = startIdentityStore a c p (takeStimulus st rest s)))) := by
  cases hs : s.schedule with
  | nil => exact .inl ⟨rfl, by simp [step, hs]⟩
  | cons st rest =>
    refine .inr ⟨st, rest, rfl, ?_⟩
    have hstep : step s = runInput st.input (takeStimulus st rest s) := by simp [step, hs]
    rw [hstep]
    cases hi : st.input with
    | word f bytes =>
      cases hd : decode f bytes with
      | ok i => exact .inl ⟨f, bytes, i, rfl, hd, by simp [runInput, runWord, hd, runInstr]⟩
      | error e => exact .inr (.inl ⟨f, bytes, e, rfl, hd, by simp [runInput, runWord, hd]⟩)
    | reset => exact .inr (.inr (.inl ⟨rfl, rfl⟩))
    | sessionStart => exact .inr (.inr (.inr (.inl ⟨rfl, rfl⟩)))
    | identityStore a c p => exact .inr (.inr (.inr (.inr ⟨a, c, p, rfl, rfl⟩)))

theorem core_run_succ (M : Host.Core) (n : Nat) (s : M.State) :
    M.run (n + 1) s =
      (match M.step s with
        | .next t => M.run n t
        | .fault f => .fault f
        | .refused q => .refused q) := rfl

@[simp] theorem steps_zero (s : State) : steps 0 s = .next s := rfl

/-- A run of `n + 1` steps is one step and a run of `n`. -/
theorem steps_succ (n : Nat) (s : State) : steps (n + 1) s = andThen (step s) (steps n) := by
  refine (core_run_succ Sys2Proof.core n s).trans ?_
  have h : Sys2Proof.core.step s = step s := rfl
  rw [h]
  cases step s <;> rfl

@[simp] theorem ticks_zero (s : State) : ticks 0 s = .next s := rfl

theorem ticks_succ (n : Nat) (s : State) : ticks (n + 1) s = andThen (exec .rxTick s) (ticks n) := rfl

/-- Ticks in `IDLE` change nothing (R106). -/
theorem ticks_of_idle (k : Nat) (s : State) (h : s.rxState = .idle) : ticks k s = .next s := by
  induction k with
  | zero => rfl
  | succ k ih =>
    have hx : exec .rxTick s = .next s := execRxTick_idle s h
    rw [ticks_succ, hx, andThen_next, ih]

end Sys2Proof.Machine
end

