-- ==== Sys2Proof/Tests/Slice0.lean ====
section
/-! SUPPORT. The model's own tests. Expected results come from spec/95_test_vectors.md (the vector's name stands in each
comment) or are words written out from spec/30_encoding.md. Then, for each statement with hypotheses, a theorem that
shows a state and operands that meet them. -/

namespace Sys2Proof.Tests

open Sys2Proof Sys2Proof.Machine

/-- A parameter set small enough to reach every boundary: `AW = 10`, `MAX_PAYLOAD = 4`, `RXCAP = 5`. -/
def smallCfg : Config where
  aw := .bits10
  maxPayload := 4
  maxPayload_pos := by decide
  maxPayload_le := by decide
  ibWindow := 3#16
  ibWindow_pos := by decide
  deadlineDefault := 10#16
  deadlineDefault_pos := by decide
  rxCap := 5
  rxCap_ge := by decide
  rxCap_le := by decide
  tickPeriod := 1
  tickPeriod_pos := by decide
  bootRetries := some 1
  bootRetries_pos := by decide

/-- `smallCfg` with the smallest window. -/
def windowOneCfg : Config := { smallCfg with ibWindow := 1#16, ibWindow_pos := by decide }

/-- Idle, with `TQ`. -/
def idleWith (tq : List Byte) : State := { State.reset with cfg := smallCfg, tq := tq }

/-- Running after the bytes `got`, with the budgets and `TQ`. -/
def running (got : List Byte) (ib dl : Word) (tq : List Byte) : State :=
  { State.reset with
    cfg := smallCfg, rxState := .run, rxI := BitVec.ofNat 16 got.length, rxIb := ib, rxDl := dl
    rxbuf := Memory.writeAll [] 0 got, tq := tq }

/-- The five bytes of V-DEC-2: address 0, command 00, no payload. -/
def frame0 : List Byte := [0x00#8, 0x00#8, 0x00#8, 0x01#8, 0xB8#8]

/-- Idle after `frame0` was received with outcome `OK`, the host in `phase`. -/
def received (phase : HostPhase) : State :=
  { State.reset with
    cfg := smallCfg, rxI := 5#16, rxOutcome := .ok, rxbuf := Memory.writeAll [] 0 frame0, host := phase }

/-- Idle after a receive that ended in `e`, the host in `phase`. -/
def failed (e : Status) (phase : HostPhase) : State :=
  { State.reset with cfg := smallCfg, rxOutcome := e, host := phase }

/-- One field of the next state. -/
def got {α : Type} (r : Result) (f : State → α) : Option α :=
  match r with
  | .next s => some (f s)
  | _ => none

/-- The refusal of an outcome. -/
def refusal : Result → Option Refusal
  | .refused q => some q
  | _ => none

/-! ## Well-formedness: each check refuses an ill-formed term -/

theorem test_wf_encode_too_long (n : Nat) (h : n = 65536) :
    (Instr.encode 0#16 0#8 (List.replicate n 0#8)).wf = false :=
  decide_eq_false (by rw [List.length_replicate]; omega)

theorem test_wf_frame_without_payload : (Instr.frame 0#16 0#8 []).wf = false := rfl

/-! ## Decoding: words written out from the spec's encodings -/

/-- R58: the four codes of `OP[1:0]`, operands low byte first. -/
theorem test_decode_opsel :
    decode .opsel [0b00#8] = .ok .noRequest ∧
    decode .opsel [0b01#8, 1#8, 0x31#8, 0#8] = .ok (.crc16 [0x31#8]) ∧
    decode .opsel [0b10#8, 0x31#8, 0x00#8, 0xD6#8, 0x02#8, 0x00#8, 0x14#8, 0x0B#8] =
      .ok (.encode 49#16 0xD6#8 [0x14#8, 0x0B#8]) ∧
    decode .opsel [0b11#8, 0x88#8, 0x13#8] = .ok (.rxStart 5000#16) := ⟨rfl, rfl, rfl, rfl⟩

/-- The rows with no encoding of their own (log 6). -/
theorem test_decode_selected_rows :
    decode .event [] = .ok .rxTick ∧ decode .internal [] = .ok .decode ∧
    decode .pseudo [0x88#8, 0x13#8] = .ok (.receive 5000#16) ∧
    decode .transport [0#8] = .ok .tAvail ∧ decode .transport [1#8] = .ok .tRead ∧
    decode .transport [2#8, 1#8, 0xA5#8, 0#8] = .ok (.tWrite [0xA5#8]) ∧
    decode .transport [3#8] = .ok .tDiscard ∧
    decode .hostPseudo [0#8, 0x31#8, 0x00#8, 0xE2#8, 0#8] = .ok (.request 49#16 0xE2#8 []) ∧
    decode .hostPseudo [1#8] = .ok .localRead := ⟨rfl, rfl, rfl, rfl, rfl, rfl, rfl, rfl, rfl⟩

/-- R49, R55: V-DEC-2 and V-DEC-17 as words. R63: the command byte 0xD6. -/
theorem test_decode_frames :
    decode .wire [0x00#8, 0x00#8, 0x00#8, 0x01#8, 0xB8#8] = .ok (.frameMin 0#16 0#8) ∧
    decode .wire [0x05#8, 0x00#8, 0xE2#8, 0xAA#8, 0x55#8, 0xD3#8, 0x4B#8] =
      .ok (.frame 5#16 0xE2#8 [0xAA#8, 0x55#8]) ∧
    decode .commandCode [0xD6#8, 0x31#8, 0x00#8, 1#8, 0x14#8, 0#8] = .ok (.cmdD6 49#16 [0x14#8]) := by
  decide +kernel

/-- What is no instruction is refused by name; V-DEC-5 and V-DEC-7 on the wire. -/
theorem test_decode_rejects :
    decode .opsel [] = .error .truncated ∧
    decode .opsel [0b11#8, 0x88#8] = .error .truncated ∧
    decode .opsel [0b01#8, 2#8] = .error (.badMarker 2#8) ∧
    decode .opsel [0b00#8, 1#8] = .error .trailingBytes ∧
    decode .transport [4#8] = .error (.unknownSelector .transport 4#8) ∧
    decode .hostPseudo [2#8] = .error (.unknownSelector .hostPseudo 2#8) ∧
    decode .commandCode [0xD5#8] = .error (.unknownCommand 0xD5#8) ∧
    decode .wire [0x12#8, 0x34#8, 0xAC#8, 0xB7#8] = .error (.notAFrame .frameTooShort) ∧
    decode .wire [0x31#8, 0x00#8, 0xD6#8, 0x01#8, 0x14#8] = .error (.notAFrame .checksumMismatch) := by
  decide +kernel

/-- Words numbered as spec/opcode_table.json numbers them (log 7): the select codes, 0xD6, V-DEC-2 as a 40-bit word. -/
theorem test_table_words :
    decodeTableWord 8 0 = some .noRequest ∧ decodeTableWord 8 1 = some (.crc16 []) ∧
    decodeTableWord 8 2 = some (.encode 0#16 0#8 []) ∧ decodeTableWord 8 3 = some (.rxStart 0#16) ∧
    decodeTableWord 8 0xD6 = some (.cmdD6 0#16 []) ∧
    decodeTableWord 40 0xB801000000 = some (.frameMin 0#16 0#8) := by decide +kernel

/-! ## One step of each instruction -/

theorem test_none : exec .noRequest (idleWith [7#8]) = .next (idleWith [7#8]) := rfl

/-- V-CRC-1. -/
theorem test_crc16_empty : got (exec (.crc16 []) State.reset) State.answer = some (.crc 0xC181#16) := rfl

/-- V-CRC-11. -/
theorem test_crc16_digits :
    got (exec (.crc16 [0x31#8, 0x32#8, 0x33#8, 0x34#8, 0x35#8, 0x36#8, 0x37#8, 0x38#8, 0x39#8]) State.reset)
      State.answer = some (.crc 0x719C#16) := by decide +kernel

/-- V-ENC-13: one below the maximum, `TXLEN = TXCAP`. -/
theorem test_encode_longest :
    got (exec (.encode 5#16 0x10#8 [0xAA#8, 0xAA#8, 0xAA#8]) (idleWith [])) (fun t => (t.txLen, t.answer, t.respOutcome.code)) =
      some (8#16, .encoded [0x05#8, 0x00#8, 0x10#8, 0xAA#8, 0xAA#8, 0xAA#8, 0xF9#8, 0xAA#8], 1#3) := by decide +kernel

/-- V-ENC-16: both checks fail, the address first; its code is 2 (R127), on the response port too (R58). -/
theorem test_encode_address_first :
    got (exec (.encode 1024#16 0x10#8 [0xAA#8, 0xAA#8, 0xAA#8, 0xAA#8]) (idleWith []))
      (fun t => (t.encOutcome, t.respOutcome.code, t.txLen)) = some (.addressOutOfRange, 2#3, 0#16) := by decide +kernel

/-- The worked example of R92. -/
theorem test_rx_start :
    got (exec (.rxStart 5000#16) State.reset) (fun t => (t.rxState, t.rxI, t.rxIb, t.rxDl, t.rxOvf, t.rxOutcome)) =
      some (.run, 0#16, 500#16, 5000#16, false, .none) := by decide +kernel

/-- V-RX-A, tick 2. -/
theorem test_tick_byte :
    got (exec .rxTick (running [] 3#16 9#16 [0x00#8])) (fun t => (t.rxState, t.rxI, t.rxIb, t.rxDl)) =
      some (.run, 1#16, 2#16, 8#16) := by decide +kernel

/-- V-RX-A, tick 8. -/
theorem test_tick_silence :
    got (exec .rxTick (running frame0 1#16 3#16 []))
      (fun t => ((t.rxState, t.rxOutcome, t.rxIb, t.rxDl), t.decAddr, t.decCmd, t.decPlen)) =
      some ((.idle, .ok, 0#16, 2#16), 0#16, 0#8, 0#16) := by decide +kernel

/-- V-DEC-2 through `DECODE`. -/
theorem test_decode_registers :
    got (exec .decode (running frame0 1#16 3#16 [])) State.answer = some (.message ⟨0#16, 0#8, []⟩) := by
  decide +kernel

theorem test_receive :
    got (exec (.receive 10#16) (idleWith [])) (fun t => (t.rxState, t.rxDl, t.host)) =
      some (.run, 10#16, .waiting .receive) := by decide +kernel

/-- R37. -/
theorem test_avail : got (exec .tAvail (idleWith [1#8])) State.answer = some (.available true) := rfl

/-- R38, U14. -/
theorem test_read_empty : refusal (exec .tRead (idleWith [])) = some .readOfEmptyQueue := rfl

theorem test_read : got (exec .tRead (idleWith [1#8, 2#8])) (fun t => (t.answer, t.tq)) = some (.byte 1#8, [2#8]) := rfl

/-- P1, line 2. -/
theorem test_write : got (exec (.tWrite frame0) (idleWith [])) State.lineOut = some frame0 := rfl

/-- P6, step 1.4. -/
theorem test_discard : got (exec .tDiscard (idleWith [0x7F#8])) State.tq = some [] := rfl

/-- P4, steps 1.2 to 1.5. -/
theorem test_request :
    got (exec (.request 0#16 0#8 []) (idleWith [0x7F#8])) (fun t => (t.lineOut, t.tq, t.txLen, t.encOutcome)) =
      some (frame0, [], 5#16, .ok) := by decide +kernel

/-- P8, line 1. -/
theorem test_request_out_of_range :
    got (exec (.request 1024#16 0x10#8 [0xAA#8]) (idleWith []))
      (fun t => (t.answer, t.encOutcome, t.lineOut)) =
      some (.raised (.status .addressOutOfRange), .none, []) := by decide +kernel

/-- The operands of the identity query are not in the source (log 13), so the test fixes no byte: with the host and the
framer idle, `LOCALREAD` is not refused. -/
theorem test_local_read_runs : refusal (exec .localRead (idleWith [])) = none := by
  have h := startRequest_cases .localRead Config.identityAddress Config.identityCommand Config.identityPayload
    (idleWith []) rfl
  have hx : exec .localRead (idleWith []) = startRequest .localRead Config.identityAddress Config.identityCommand
    Config.identityPayload (idleWith []) := rfl
  rw [hx]
  rcases h with ⟨-, h⟩ | ⟨-, -, h⟩ | ⟨f, -, h⟩ <;> rw [h] <;> rfl

/-- V-ENC-11's frame on the line. -/
theorem test_frame :
    got (exec (.frame 5#16 0xE2#8 [0xAA#8, 0x55#8]) (idleWith [0x7F#8])) State.tq =
      some [0x7F#8, 0x05#8, 0x00#8, 0xE2#8, 0xAA#8, 0x55#8, 0xD3#8, 0x4B#8] := by decide +kernel

/-- V-ENC-2's frame on the line. -/
theorem test_frame_min : got (exec (.frameMin 0#16 0#8) (idleWith [])) State.tq = some frame0 := by decide +kernel

/-- P3, steps 1.1 to 1.3. -/
theorem test_cmd_d6 :
    got (exec (.cmdD6 49#16 [0x01#8, 0x14#8, 0x00#8, 0x0B#8, 0x01#8]) State.reset)
      (fun t => (t.lineOut, t.host)) =
      some ([0x31#8, 0x00#8, 0xD6#8, 0x01#8, 0x14#8, 0x00#8, 0x0B#8, 0x01#8, 0x36#8, 0x8E#8],
        .waiting (.configure [0x01#8, 0x14#8, 0x00#8, 0x0B#8, 0x01#8])) := by decide +kernel

/-! ## Witnesses: a state and operands that meet the hypotheses of each statement -/

theorem idleWith_inv (tq : List Byte) : (idleWith tq).Inv where
  rxbuf_prefix := rfl
  rxI_le := Nat.zero_le _
  txbuf_prefix := rfl
  txLen_le := Nat.zero_le _
  run_budget := nofun
  run_outcome := nofun
  run_deadline := nofun
  overrun_full := nofun
  rxOutcome_legal := ⟨nofun, nofun⟩
  encOutcome_legal := .inl rfl
  ok_decoded := nofun
  timeout_empty := nofun
  overrun_flag := nofun
  enc_ok := nofun
  enc_not_ok := fun _ => rfl
  host_waits := .inl rfl

theorem running_inv (bs : List Byte) (ib dl : Word) (tq : List Byte) (hn : bs.length ≤ 5)
    (hib : 1 ≤ ib.toNat ∧ ib.toNat ≤ 3) (hdl : dl.toNat = 0 → 1 ≤ bs.length) : (running bs ib dl tq).Inv := by
  have hlen : (BitVec.ofNat 16 bs.length).toNat = bs.length := by
    rw [BitVec.toNat_ofNat, Nat.mod_eq_of_lt (by omega)]
  refine ⟨?_, ?_, rfl, Nat.zero_le _, fun _ => hib, fun _ => rfl, fun _ h => ?_, nofun, ⟨nofun, nofun⟩, .inl rfl, nofun,
    nofun, nofun, nofun, fun _ => rfl, .inl rfl⟩
  · change (Memory.writeAll [] 0 bs).map Prod.fst = List.range (BitVec.ofNat 16 bs.length).toNat
    rw [hlen, Memory.map_fst_writeAll_end bs [] 0 rfl, Nat.zero_add]
  · change (BitVec.ofNat 16 bs.length).toNat ≤ 5
    omega
  · change 1 ≤ (BitVec.ofNat 16 bs.length).toNat
    rw [hlen]
    exact hdl h

theorem received_inv : (received .idle).Inv where
  rxbuf_prefix := by decide +kernel
  rxI_le := by decide
  txbuf_prefix := rfl
  txLen_le := by decide
  run_budget := nofun
  run_outcome := nofun
  run_deadline := nofun
  overrun_full := nofun
  rxOutcome_legal := ⟨nofun, nofun⟩
  encOutcome_legal := .inl rfl
  ok_decoded := fun _ => by decide +kernel
  timeout_empty := nofun
  overrun_flag := nofun
  enc_ok := nofun
  enc_not_ok := fun _ => rfl
  host_waits := .inl rfl

/-- Also for `InvariantStatesAreSafe`, `AtMostOneByteATick`, `EveryTickMovesTheBudgets`. -/
theorem witness_inv_running : (running [] 3#16 10#16 [1#8]).Inv ∧ (running [] 3#16 10#16 [1#8]).rxState = .run :=
  ⟨running_inv _ _ _ _ (by decide) (by decide) (by decide), rfl⟩

theorem witness_Crc16FollowsTheAlgorithm :
    ∃ shift : Word → Word, ∀ a : Word, shift a = if a.getLsbD 0 = true then (a >>> 1) ^^^ 0xA001#16 else a >>> 1 :=
  ⟨crcBit, fun _ => rfl⟩

/-- The invariant does not speak of the schedule. -/
theorem inv_schedule (s : State) (x : List Stimulus) (h : s.Inv) : { s with schedule := x }.Inv :=
  ⟨h.1, h.2, h.3, h.4, h.5, h.6, h.7, h.8, h.9, h.10, h.11, h.12, h.13, h.14, h.15, h.16⟩

/-- `Crc16AnswersAndWritesNothing`, `ZeroDeadlineRefused`, `IdleTickChangesNothing`, `LocalReadIsARequest`: the framer and
the host are idle after reset. -/
theorem witness_idle : State.reset.rxState = .idle ∧ State.reset.host = .idle := ⟨rfl, rfl⟩

theorem witness_CrcDifferenceDependsOnByteDifference :
    List.zipWith (· ^^^ ·) [0x31#8] [0x30#8] = List.zipWith (· ^^^ ·) [0x00#8] [0x01#8] := by decide

theorem witness_OneChangedByteChangesTheCrc : [0x31#8][0] ≠ 0x30#8 := by decide

/-- Address and payload length at the largest legal values. -/
theorem witness_EncodeWritesTheFrame :
    (idleWith []).rxState = .idle ∧ (1023#16).toNat ≤ 2 ^ (idleWith []).cfg.aw.bits - 1 ∧
      [0#8, 0#8, 0#8].length < (idleWith []).cfg.maxPayload := by decide

/-- Each clause at its boundary (also for `EncodeFailsExactlyOnIllegalOperands`): address 1024; then address 1023 with a payload of exactly the maximum. -/
theorem witness_EncodeRejectsInOrder :
    2 ^ (idleWith []).cfg.aw.bits - 1 < (1024#16).toNat ∧ (1023#16).toNat ≤ 2 ^ (idleWith []).cfg.aw.bits - 1 ∧
      (idleWith []).cfg.maxPayload ≤ [0#8, 0#8, 0#8, 0#8].length := by decide

/-- V-DEC-3, V-DEC-12, V-DEC-2: 4 bytes, 5 bytes with a wrong CRC, 5 bytes with the right one. -/
theorem witness_DecodeChecksThenExtracts :
    [0x31#8, 0x00#8, 0xD6#8, 0x01#8].length < 5 ∧
    crc16 [0x31#8, 0x00#8, 0xD6#8] ≠ (0x14#8 ++ 0x01#8 : BitVec (8 + 8)) ∧
    crc16 [0x00#8, 0x00#8, 0x00#8] = (0xB8#8 ++ 0x01#8 : BitVec (8 + 8)) := by decide +kernel

theorem witness_UpperAddressBitsZeroThenIgnored : encodeFrame smallCfg 0#16 0#8 [] = .ok frame0 := by decide +kernel

theorem witness_FrameRoundTripAndCorruption :
    (1023#16).toNat ≤ 2 ^ smallCfg.aw.bits - 1 ∧ [0#8, 0#8, 0#8].length < smallCfg.maxPayload ∧
      encodeFrame smallCfg 0#16 0#8 [] = .ok frame0 ∧ frame0.length = 5 ∧ frame0[4]? ≠ some 0xB7#8 := by decide +kernel

/-- A buffer that decodes, and one that does not (no byte). -/
theorem witness_DecodeBindsRegisters :
    (running frame0 1#16 3#16 []).Inv ∧ decodeFrame smallCfg.aw frame0 = .ok ⟨0#16, 0#8, []⟩ ∧
    (idleWith []).Inv ∧ decodeFrame smallCfg.aw [] = .error .frameTooShort :=
  ⟨running_inv _ _ _ _ (by decide) (by decide) (by decide), by decide +kernel, idleWith_inv _, rfl⟩

theorem witness_MessageReadableExactlyWhenOk :
    (received .idle).Inv ∧ (received .idle).rxOutcome = .ok ∧ (idleWith []).Inv ∧ (idleWith []).rxOutcome ≠ .ok :=
  ⟨received_inv, rfl, idleWith_inv _, nofun⟩

/-- Both ends of the operand's range. -/
theorem witness_RxStartArmsTheFramer :
    (idleWith []).rxState = .idle ∧ 1 ≤ (1#16).toNat ∧ 1 ≤ (65535#16).toNat := by decide

theorem witness_RequestsRefusedWhileRunning : (running [] 3#16 10#16 []).rxState = .run := rfl

/-- Silence with no byte yet; and the last byte the buffer has room for. -/
theorem witness_TickCountsDown :
    (running [] 3#16 2#16 []).rxState = .run ∧ (running [] 3#16 2#16 []).afterCountdowns.rxIb ≠ 0#16 ∧
    (running [] 3#16 2#16 []).afterCountdowns.rxDl ≠ 0#16 ∧
    (running [0#8, 0#8, 0#8, 0#8] 1#16 0#16 [7#8]).afterCountdowns.rxIb ≠ 0#16 ∧
    (running [0#8, 0#8, 0#8, 0#8] 1#16 0#16 [7#8]).afterCountdowns.rxI ≠ 0#16 ∧
    (running [0#8, 0#8, 0#8, 0#8] 1#16 0#16 [7#8]).rxI.toNat < smallCfg.rxCap := by decide +kernel

/-- V-RX-G, tick 6. -/
theorem witness_FullBufferDropsTheByte :
    (running frame0 2#16 5#16 [0x77#8]).rxState = .run ∧ (running frame0 2#16 5#16 [0x77#8]).tq = [0x77#8] ∧
    (running frame0 2#16 5#16 [0x77#8]).rxI.toNat = (running frame0 2#16 5#16 [0x77#8]).cfg.rxCap ∧
    2 ≤ (running frame0 2#16 5#16 [0x77#8]).cfg.ibWindow.toNat := by decide +kernel

/-- Each clause of `SilenceEndsTheReceive`: overrun, four bytes, five bytes with a wrong CRC, a frame. -/
theorem witness_SilenceEndsTheReceive :
    (running frame0 1#16 3#16 []).Inv ∧ (running frame0 1#16 3#16 []).afterCountdowns.rxIb = 0#16 ∧
    { running frame0 1#16 3#16 [] with rxOvf := true }.Inv ∧
    (running [0#8, 0#8, 0#8, 0#8] 1#16 3#16 []).Inv ∧
    (running [0#8, 0#8, 0#8, 0#8] 1#16 3#16 []).afterCountdowns.rxI.toNat < 5 ∧
    (running [0#8, 0#8, 0#8, 0#8, 0#8] 1#16 3#16 []).Inv ∧
    decodeFrame smallCfg.aw [0#8, 0#8, 0#8, 0#8, 0#8] = .error .checksumMismatch ∧
    decodeFrame smallCfg.aw frame0 = .ok ⟨0#16, 0#8, []⟩ := by
  have h := running_inv frame0 1#16 3#16 [] (by decide) (by decide) (by decide)
  exact ⟨h, by decide +kernel,
    ⟨h.1, h.2, h.3, h.4, h.5, h.6, h.7, fun _ => by decide +kernel, h.9, h.10, nofun, h.12, fun _ => rfl, h.14, h.15, h.16⟩,
    running_inv _ _ _ _ (by decide) (by decide) (by decide), by decide +kernel,
    running_inv _ _ _ _ (by decide) (by decide) (by decide), by decide +kernel, by decide +kernel⟩

/-- V-RX-B, tick 10. -/
theorem witness_EmptyDeadlineIsTimeout :
    (running [] 3#16 1#16 []).rxState = .run ∧ (running [] 3#16 1#16 []).afterCountdowns.rxIb ≠ 0#16 ∧
    (running [] 3#16 1#16 []).afterCountdowns.rxDl = 0#16 ∧ (running [] 3#16 1#16 []).afterCountdowns.rxI = 0#16 := by
  decide +kernel

/-- A byte accumulated with the deadline expired; a byte available on the last deadline tick. -/
theorem witness_DeadlineNeverCutsAReceiveWithBytes :
    (running [0#8] 2#16 0#16 []).Inv ∧ 1 ≤ (running [0#8] 2#16 0#16 []).rxI.toNat ∧
    (running [] 3#16 1#16 [7#8]).Inv ∧ (running [] 3#16 1#16 [7#8]).tq ≠ [] :=
  ⟨running_inv _ _ _ _ (by decide) (by decide) (by decide), by decide,
    running_inv _ _ _ _ (by decide) (by decide) (by decide), nofun⟩

theorem witness_TimeoutExactlyAtTheDeadline :
    (idleWith []).rxState = .idle ∧ 1 ≤ (1#16).toNat ∧ (idleWith []).tq = [] := by decide

/-- The window of 3, and the window of 1 (V-RX-F, tick 2). -/
theorem witness_SilenceWindowIsExact :
    (running [] 3#16 9#16 [7#8]).Inv ∧ (running [] 3#16 9#16 [7#8]).tq = [7#8] ∧
    { running [] 1#16 9#16 [0x55#8] with cfg := windowOneCfg }.Inv ∧ windowOneCfg.ibWindow = 1#16 ∧
    (running [] 1#16 9#16 [0x55#8]).rxI = 0#16 := by
  have h := running_inv [] 1#16 9#16 [0x55#8] (by decide) (by decide) (by decide)
  exact ⟨running_inv _ _ _ _ (by decide) (by decide) (by decide), rfl,
    ⟨h.1, h.2, h.3, h.4, fun _ => ⟨Nat.le_refl _, Nat.le_refl _⟩, h.6, h.7, h.8, h.9, h.10, nofun, h.12, h.13, h.14, h.15, h.16⟩, rfl, rfl⟩

/-- V-RX-C, tick 4, with the byte and without it. -/
theorem witness_ByteOnTheLastDeadlineTickWins :
    (running [] 3#16 1#16 [0x00#8]).Inv ∧ (running [] 3#16 1#16 [0x00#8]).tq ≠ [] ∧
    (running [] 3#16 1#16 []).Inv ∧ (running [] 3#16 1#16 []).tq = [] ∧ (running [] 3#16 1#16 []).rxI = 0#16 ∧
    (running [] 3#16 1#16 []).rxDl = 1#16 :=
  ⟨running_inv _ _ _ _ (by decide) (by decide) (by decide), nofun,
    running_inv _ _ _ _ (by decide) (by decide) (by decide), rfl, rfl, rfl⟩

/-- As many ticks as bytes, past the full buffer and the expired deadline. -/
theorem witness_BytesKeepAReceiveRunning :
    (running frame0 1#16 0#16 [1#8, 2#8, 3#8]).Inv ∧ 2 ≤ smallCfg.ibWindow.toNat ∧
    3 ≤ (running frame0 1#16 0#16 [1#8, 2#8, 3#8]).tq.length :=
  ⟨running_inv _ _ _ _ (by decide) (by decide) (by decide), by decide, by decide⟩

/-- A frame that just fits the buffer. -/
theorem witness_WholeFrameIsReceived :
    (idleWith frame0).rxState = .idle ∧ 2 ≤ smallCfg.ibWindow.toNat ∧ (idleWith frame0).tq = wireFrame 0#16 0#8 [] ∧
    ([] : List Byte).length + 5 ≤ smallCfg.rxCap := by decide +kernel

theorem witness_FramerIgnoresTheTransmitSide (i : Instr) (h : i = .rxTick ∨ i = .rxStart 1#16) :
    i = .rxTick ∨ ∃ deadline : Word, i = .rxStart deadline := h.imp id fun h => ⟨_, h⟩

theorem witness_ReceiveArmsAndWaits :
    (idleWith []).rxState = .idle ∧ (idleWith []).host = .idle ∧ 1 ≤ (1#16).toNat := by decide

theorem witness_TReadTakesTheHead : (idleWith [1#8, 2#8]).tq = 1#8 :: [2#8] ∧ (idleWith []).tq = [] := ⟨rfl, rfl⟩

/-- `RequestAddressCheckedBeforeIo` at 1024; `RequestEncodeErrorSendsNothing` and `RequestTransmitsDiscardsAndWaits` at
address 1023 with a payload of the maximum and of one less. -/
theorem witness_requests :
    (idleWith []).host = .idle ∧ (idleWith []).rxState = .idle ∧
    2 ^ (idleWith []).cfg.aw.bits - 1 < (1024#16).toNat ∧ (1023#16).toNat ≤ 2 ^ (idleWith []).cfg.aw.bits - 1 ∧
    (idleWith []).cfg.maxPayload ≤ [0#8, 0#8, 0#8, 0#8].length ∧
    [0#8, 0#8, 0#8].length < (idleWith []).cfg.maxPayload := by decide

theorem witness_RequestTransmitsDiscardsAndWaits :
    (Instr.request 0#16 1#8 [] = .request 0#16 1#8 [] ∧ Call.request 1#8 = .request 1#8) ∧
    ((0xD6#8 : Byte) = 0xD6#8 ∧ Instr.cmdD6 0#16 [] = .cmdD6 0#16 [] ∧ Call.configure [] = .configure []) :=
  ⟨⟨rfl, rfl⟩, rfl, rfl, rfl⟩

/-- A step of the schedule for `SessionAndStoreStartRequests`. -/
theorem witness_SessionAndStoreStartRequests :
    ({ idleWith [] with schedule := [{ arrivals := [1#8], input := .identityStore 1023#16 1#8 [2#8] }] } : State).schedule =
      { arrivals := [1#8], input := .identityStore 1023#16 1#8 [2#8] } :: [] ∧
    (1023#16).toNat ≤ 2 ^ smallCfg.aw.bits - 1 ∧ [2#8].length < smallCfg.maxPayload := ⟨rfl, by decide, by decide⟩

/-- A received message for every call; the command matches or differs; the configure-radio request with and without the
echo (its command 0xD6 comes in the frame of V-DEC-9, whose payload is empty). -/
theorem witness_CallReturnsTheResponse :
    hostReadMessage (received (.waiting .receive)) = .ok ⟨0#16, 0#8, []⟩ ∧
    hostReadMessage (received (.waiting (.request 1#8))) = .ok ⟨0#16, 0#8, []⟩ ∧
    hostReadMessage (received (.waiting (.identityStore 0#8 []))) = .ok ⟨0#16, 0#8, []⟩ ∧
    sentCommand (.request 1#8) = some 1#8 ∧ (received (.waiting (.request 0#8))).rxState = .idle := by decide +kernel

/-- The configure-radio request after the frame of V-DEC-9. -/
theorem witness_CallReturnsTheResponse_configure (p : List Byte) :
    hostReadMessage { received (.waiting (.configure p)) with
      rxbuf := Memory.writeAll [] 0 [0x31#8, 0xFC#8, 0xD6#8, 0x90#8, 0xE9#8], decAddr := 49#16, decCmd := 0xD6#8 } =
      .ok ⟨49#16, 0xD6#8, []⟩ := rfl

/-- The identity reads and stores: the response carries the identity query's own command, which the source does not give
(log 13), so the decoded register holds whatever it is. -/
theorem witness_CallReturnsTheResponse_identity :
    hostReadMessage { received (.waiting .localRead) with decCmd := Config.identityCommand } =
      .ok ⟨0#16, Config.identityCommand, []⟩ ∧
    hostReadMessage { received (.waiting (.bootstrap none)) with decCmd := Config.identityCommand } =
      .ok ⟨0#16, Config.identityCommand, []⟩ ∧
    (received (.waiting (.identityStore 0#8 []))).identity = none ∧ (received (.waiting .localRead)).rxOutcome = .ok :=
  ⟨rfl, rfl, rfl, rfl⟩

/-- R152: a store that returns while no identity read has succeeded leaves the cache empty. -/
theorem test_identity_store_leaves_the_cache_empty :
    got (resume (received (.waiting (.identityStore 0#8 [])))) (fun t => (t.identity, t.host)) = some (none, .idle) := by
  decide +kernel

/-- Each clause of `CallRaisesTheOutcome`. -/
theorem witness_CallRaisesTheOutcome :
    (failed .timeout (.waiting (.request 1#8))).rxOutcome ≠ .ok ∧
    (failed .timeout (.waiting (.bootstrap (some 0)))).host = .waiting (.bootstrap (some 0)) ∧
    (failed .rxOverrun (.waiting (.bootstrap none))).rxOutcome ≠ .timeout ∧
    (failed .checksumMismatch (.waiting (.bootstrap none))).rxOutcome = .checksumMismatch ∧
    (failed .timeout (.waiting (.bootstrap (some 1)))).rxOutcome = .timeout := by decide

/-- A request at address 1023 and the smallest response, 5 bytes, with the window of 3: `n + 1 = 7` ticks. -/
def requestSchedule : List Stimulus :=
  present (.request 1023#16 0#8 [1#8]) ::
    { arrivals := wireFrame 0#16 0#8 [], input := .word .event [] } :: silentTicks 6

/-- All hypotheses together, on one state with its schedule. -/
theorem witness_RequestReturnsTheResponsePayload :
    let s : State := { idleWith [] with schedule := requestSchedule }
    s.host = .idle ∧ s.rxState = .idle ∧ (1023#16).toNat ≤ 2 ^ s.cfg.aw.bits - 1 ∧
    [1#8].length < s.cfg.maxPayload ∧ 2 ≤ s.cfg.ibWindow.toNat ∧ ([] : List Byte).length + 5 ≤ s.cfg.rxCap ∧
    6 + 1 = ([] : List Byte).length + 5 + s.cfg.ibWindow.toNat - 1 ∧
    s.schedule = present (.request 1023#16 0#8 [1#8]) ::
      { arrivals := wireFrame 0#16 0#8 [], input := .word .event [] } :: silentTicks 6 :=
  ⟨rfl, rfl, by decide, by decide, by decide, by decide, by decide, rfl⟩

theorem witness_DecodeUndoesEncode : (Instr.frame 0#16 0#8 [0#8]).wf = true ∧ (Instr.encode 0#16 0#8 []).wf = true :=
  ⟨rfl, rfl⟩

theorem witness_DecoderAnswersWellFormed : decode .event [] = .ok .rxTick := rfl

/-- `RX_STATE` does change, by an arming and by a terminating tick. -/
theorem witness_OnlyReceiveOperationsChangeRxState :
    got (exec (.rxStart 1#16) (idleWith [])) State.rxState = some .run ∧
    got (exec .rxTick (running [] 3#16 1#16 [])) State.rxState = some .idle := by decide +kernel

/-- The step clause, from states that meet the invariant: the host's identity store arms the framer, a tick ends the receive,
the reset input ends it. -/
theorem witness_OnlyReceiveOperationsChangeRxState_step :
    { idleWith [] with schedule := [{ arrivals := [], input := .identityStore 1023#16 1#8 [] }] }.Inv ∧
    got (step { idleWith [] with schedule := [{ arrivals := [], input := .identityStore 1023#16 1#8 [] }] })
      State.rxState = some .run ∧
    { running [] 3#16 1#16 [] with schedule := silentTicks 1 }.Inv ∧
    got (step { running [] 3#16 1#16 [] with schedule := silentTicks 1 }) State.rxState = some .idle ∧
    got (step { running [] 3#16 1#16 [] with schedule := [{ arrivals := [], input := .reset }] }) State.rxState =
      some .idle :=
  ⟨inv_schedule _ _ (idleWith_inv _), by decide +kernel,
    inv_schedule _ _ (running_inv _ _ _ _ (by decide) (by decide) (by decide)), by decide +kernel, rfl⟩

/-- The step clause: `ENCODE` as a word, and the host's identity store. -/
theorem witness_OnlyEncodeWritesTheTransmitSide_step :
    { idleWith [] with schedule := [present (.encode 0#16 0#8 [])] }.Inv ∧
    got (step { idleWith [] with schedule := [present (.encode 0#16 0#8 [])] }) State.txLen = some 5#16 ∧
    got (step { idleWith [] with schedule := [{ arrivals := [], input := .identityStore 1023#16 1#8 [] }] })
      State.txLen = some 5#16 :=
  ⟨inv_schedule _ _ (idleWith_inv _), by decide +kernel, by decide +kernel⟩

theorem witness_OnlyEncodeWritesTheTransmitSide :
    got (exec (.encode 0#16 0#8 []) (idleWith [])) State.txLen ≠ some (idleWith []).txLen := by decide +kernel

/-- `StepRunsTheDecodedInstruction`, `StepRefusesUndecodableWords`, `ParametersNeverChange`, `StepKeepsTheInvariant`. -/
theorem witness_steps :
    decode .transport [3#8] = .ok .tDiscard ∧ decode .transport [4#8] = .error (.unknownSelector .transport 4#8) ∧
    got (step { idleWith [7#8] with schedule := [{ arrivals := [8#8], input := .word .transport [3#8] }] }) State.tq =
      some [] ∧
    refusal (step { idleWith [] with schedule := [{ arrivals := [], input := .word .transport [4#8] }] }) =
      some (.undecodable (.unknownSelector .transport 4#8)) := ⟨rfl, rfl, rfl, rfl⟩

theorem witness_IdleMachineWaits : State.reset.schedule = [] := rfl

/-- The reset input in the middle of a receive. -/
theorem witness_ResetInputResetsTheBlock :
    got (step { running frame0 1#16 3#16 [7#8] with schedule := [{ arrivals := [8#8], input := .reset }] })
      (fun t => (t.rxState, t.rxI, t.tq)) = some (.idle, 0#16, [7#8, 8#8]) := rfl

/-- Each clause of `HostCallsRefused`: a host that waits, with a session start next on its schedule; a running receive with the
host idle and the largest legal address. -/
theorem witness_HostCallsRefused :
    ({ running [] 3#16 9#16 [] with
        host := .waiting .receive, schedule := [{ arrivals := [], input := .sessionStart }] } : State).host =
      .waiting .receive ∧
    startsHostCall .sessionStart = true ∧
    (running [] 3#16 9#16 []).host = .idle ∧ (running [] 3#16 9#16 []).rxState = .run ∧
    (1023#16).toNat ≤ 2 ^ (running [] 3#16 9#16 []).cfg.aw.bits - 1 := ⟨rfl, rfl, rfl, rfl, by decide⟩

/-- A running receive with the host blocked in `call` and one tick to come. -/
def lastTick (bytes : List Byte) (call : Call) : State :=
  { running bytes 1#16 3#16 [] with host := .waiting call, schedule := silentTicks 1 }

theorem lastTick_inv (bytes : List Byte) (call : Call) (h : 1 ≤ bytes.length ∧ bytes.length ≤ 5) :
    (lastTick bytes call).Inv := by
  have hr := running_inv bytes 1#16 3#16 [] h.2 (by decide) (fun _ => h.1)
  exact ⟨hr.1, hr.2, hr.3, hr.4, hr.5, hr.6, hr.7, hr.8, hr.9, hr.10, hr.11, hr.12, hr.13, hr.14, hr.15, .inr rfl⟩

/-- The tick that ends the receive of a frame with no payload completes the blocked call with its message. -/
theorem step_lastTick (a b c d e : Byte) (address : Word) (command : Byte) (call : Call)
    (h : decodeFrame smallCfg.aw [a, b, c, d, e] = .ok ⟨address, command, []⟩) :
    ∃ u : State, step (lastTick [a, b, c, d, e] call) = completeCall call u ∧ u.rxOutcome = .ok ∧
      hostReadMessage u = .ok ⟨address, command, []⟩ := by
  generalize hu : State.afterCountdowns { lastTick [a, b, c, d, e] call with schedule := [] } = u
  have hx : step (lastTick [a, b, c, d, e] call) = andThen (tickTerminate u) resume := by rw [← hu]; rfl
  have hpre : u.rxbuf.map Prod.fst = List.range u.rxI.toNat := by rw [← hu]; rfl
  have hd : decodeFrame u.cfg.aw (u.rxbuf.map Prod.snd) = .ok ⟨address, command, []⟩ := by rw [← hu]; exact h
  have hb : u.rxIb = 0#16 := by
    rw [← hu]; simp [State.afterCountdowns, State.countAfterPoll, State.budgetAfterPoll, lastTick, running]
  have hI : u.rxI = 5#16 := by
    rw [← hu]; simp [State.afterCountdowns, State.countAfterPoll, lastTick, running]
  have hend : tickTerminate u = endBySilence u := by
    rcases tickTerminate_cases u with ⟨-, h⟩ | ⟨h, -⟩ | ⟨h, -⟩
    · exact h
    · exact absurd hb h
    · exact absurd hb h
  rcases endBySilence_cases u hpre with ⟨h2, -⟩ | ⟨-, m', h2, h3⟩ | ⟨-, e, h2, -⟩
  · rw [← hu] at h2; cases h2
  · rw [hd] at h2; cases h2
    refine ⟨{ bindMessage ⟨address, command, []⟩ u with rxOutcome := .ok, rxState := .idle }, ?_, rfl, ?_⟩
    · rw [hx, hend, h3, andThen_next]
      exact resume_waiting _ call (by rw [← hu]; rfl) rfl
    · simp [hostReadMessage, hostReadDec, bindMessage, hI, readSpace, Memory.readRange]
  · rw [hd] at h2; cases h2

/-- `IdentityEmptyUntilARead`: the last tick of a bootstrap's receive, whose frame carries the identity query's command (log
13), fills the cache. -/
theorem witness_IdentityEmptyUntilARead :
    (lastTick (wireFrame 0#16 Config.identityCommand []) (.bootstrap none)).Inv ∧
    (lastTick (wireFrame 0#16 Config.identityCommand []) (.bootstrap none)).identity = none ∧
    ∃ t : State, step (lastTick (wireFrame 0#16 Config.identityCommand []) (.bootstrap none)) = .next t ∧
      t.identity ≠ none := by
  refine ⟨lastTick_inv _ _ ⟨by simp, by simp⟩, rfl, ?_⟩
  have hd : decodeFrame smallCfg.aw (wireFrame 0#16 Config.identityCommand []) =
      .ok ⟨0#16, Config.identityCommand, []⟩ := by
    rw [decodeFrame, parseFrame_wireFrame]
    rfl
  obtain ⟨u, h1, h2, h3⟩ := step_lastTick _ _ _ _ _ _ _ (.bootstrap none) hd
  refine ⟨returnOk ⟨0#16, Config.identityCommand, []⟩ (cacheIdentity ⟨0#16, Config.identityCommand, []⟩ u), ?_, nofun⟩
  refine h1.trans ?_
  rw [completeCall, if_pos h2, h3]
  simp [sentCommand, finishCall]

end Sys2Proof.Tests
end

section
/-! PROOF. No operation changes a parameter (R8, R48 (a)): one lemma per operation, from the guards up to the step. -/

namespace Sys2Proof.Machine

/-- Where the result goes on, it goes on with the parameters `c`. -/
def KeepsCfg (c : Config) (r : Result) : Prop := ∀ t : State, r = .next t → t.cfg = c

@[simp] theorem keepsCfg_next (c : Config) (t : State) : KeepsCfg c (.next t) ↔ t.cfg = c :=
  ⟨fun h => h t rfl, fun h u hu => by cases hu; exact h⟩

@[simp] theorem keepsCfg_fault (c : Config) (f : Fault) : KeepsCfg c (.fault f) := by
  intro t h
  cases h

@[simp] theorem keepsCfg_refused (c : Config) (q : Refusal) : KeepsCfg c (.refused q) := by
  intro t h
  cases h

theorem KeepsCfg.andThen {c : Config} {r : Result} {k : State → Result} (hr : KeepsCfg c r)
    (hk : ∀ u : State, u.cfg = c → KeepsCfg c (k u)) : KeepsCfg c (andThen r k) := by
  intro t h
  obtain ⟨u, hu, hku⟩ := andThen_eq_next r k t h
  exact hk u (hr u hu) t hku

theorem KeepsCfg.whenIdle {c : Config} {s : State} {k : State → Result} (h : KeepsCfg c (k s)) :
    KeepsCfg c (whenIdle s k) :=
  fun t ht => h t (whenIdle_eq_next s t k ht).2

theorem KeepsCfg.whenHostFree {c : Config} {s : State} {k : State → Result} (h : KeepsCfg c (k s)) :
    KeepsCfg c (whenHostFree s k) :=
  fun t ht => h t (whenHostFree_eq_next s t k ht).2

@[simp] theorem encodeInto_cfg (address : Word) (command : Byte) (payload : List Byte) (s : State) :
    (encodeInto address command payload s).cfg = s.cfg := by
  obtain ⟨f, -, h⟩ | ⟨e, -, h⟩ := encodeInto_cases address command payload s <;> simp [h]

@[simp] theorem finishCall_cfg (call : Call) (m : Message) (s : State) : (finishCall call m s).cfg = s.cfg := by
  cases call with
  | configure requested => simp only [finishCall]; split <;> simp
  | receive | request _ | localRead | bootstrap _ | identityStore _ _ => rfl

theorem startReceive_keepsCfg (deadline : Word) (s : State) : KeepsCfg s.cfg (startReceive deadline s) := by
  intro t h
  obtain ⟨-, -, rfl⟩ := startReceive_eq_next deadline s t h
  exact armFramer_cfg s deadline

theorem execCrc16_keepsCfg (bytes : List Byte) (s : State) : KeepsCfg s.cfg (execCrc16 bytes s) :=
  .whenIdle (by simp)

theorem execEncode_keepsCfg (address : Word) (command : Byte) (payload : List Byte) (s : State) :
    KeepsCfg s.cfg (execEncode address command payload s) :=
  .whenIdle (by simp)

theorem execDecode_keepsCfg (s : State) : KeepsCfg s.cfg (execDecode s) := by
  unfold execDecode
  split <;> simp

theorem endBySilence_keepsCfg (s : State) : KeepsCfg s.cfg (endBySilence s) := by
  unfold endBySilence
  split
  · simp
  · split <;> simp

theorem tickTerminate_keepsCfg (s : State) : KeepsCfg s.cfg (tickTerminate s) := by
  obtain ⟨-, h⟩ | ⟨-, -, -, h⟩ | ⟨-, -, h⟩ := tickTerminate_cases s
  · rw [h]; exact endBySilence_keepsCfg s
  · simp [h]
  · simp [h]

theorem execRxTick_keepsCfg (s : State) : KeepsCfg s.cfg (execRxTick s) := by
  cases h : s.rxState with
  | idle => simp [execRxTick_idle s h]
  | run => rw [execRxTick_run s h]; exact tickTerminate_keepsCfg s.afterCountdowns

theorem execReceive_keepsCfg (deadline : Word) (s : State) : KeepsCfg s.cfg (execReceive deadline s) :=
  .whenHostFree ((startReceive_keepsCfg deadline s).andThen fun u hu => by simpa using hu)

theorem execTRead_keepsCfg (s : State) : KeepsCfg s.cfg (execTRead s) := by
  cases h : s.tq <;> simp [execTRead, tRead, h]

theorem transmitAndArm_keepsCfg (call : Call) (s : State) : KeepsCfg s.cfg (transmitAndArm call s) := by
  unfold transmitAndArm
  split
  · simp
  · next bytes _ =>
    exact (startReceive_keepsCfg _ (tDiscard (tWrite bytes s))).andThen fun u hu => by simpa using hu

/-- The one route by which the host's calls start: `ENCODE` and, if it ended in `OK`, the transmission. -/
theorem startRequest_keepsCfg (call : Call) (address : Word) (command : Byte) (payload : List Byte) (s : State) :
    KeepsCfg s.cfg (startRequest call address command payload s) := by
  unfold startRequest
  split
  · refine .whenIdle ?_
    dsimp only
    split
    · simpa using transmitAndArm_keepsCfg call (encodeInto address command payload s)
    · simp
  · simp

theorem failCall_keepsCfg (call : Call) (s : State) : KeepsCfg s.cfg (failCall call s) := by
  unfold failCall
  split
  · split
    · next left' _ _ => exact startRequest_keepsCfg (.bootstrap left') _ _ _ { s with host := .idle }
    · simp
  · simp

theorem completeCall_keepsCfg (call : Call) (s : State) : KeepsCfg s.cfg (completeCall call s) := by
  unfold completeCall
  split
  · split
    · simp
    · split
      · simp
      · split <;> simp
  · exact failCall_keepsCfg call s

theorem resume_keepsCfg (s : State) : KeepsCfg s.cfg (resume s) := by
  unfold resume
  split
  · exact completeCall_keepsCfg _ s
  · simp

/-- Every instruction, by its arm of the dispatch. -/
theorem exec_keepsCfg (i : Instr) (s : State) : KeepsCfg s.cfg (exec i s) := by
  cases i with
  | noRequest => exact (keepsCfg_next _ _).2 rfl
  | crc16 bytes => exact execCrc16_keepsCfg bytes s
  | encode address command payload => exact execEncode_keepsCfg address command payload s
  | rxStart deadline => exact startReceive_keepsCfg deadline s
  | rxTick => exact execRxTick_keepsCfg s
  | decode => exact execDecode_keepsCfg s
  | receive deadline => exact execReceive_keepsCfg deadline s
  | tRead => exact execTRead_keepsCfg s
  | tAvail | tWrite _ | tDiscard | frame _ _ _ | frameMin _ _ => exact (keepsCfg_next _ _).2 rfl
  | request _ _ _ | localRead | cmdD6 _ _ => exact .whenHostFree (startRequest_keepsCfg _ _ _ _ s)

theorem step_keepsCfg (s : State) : KeepsCfg s.cfg (step s) := by
  obtain ⟨-, h⟩ | ⟨st, rest, -, hst⟩ := step_cases s
  · simp [h]
  · obtain ⟨_, _, i, -, -, h⟩ | ⟨_, _, e, -, -, h⟩ | ⟨-, h⟩ | ⟨-, h⟩ | ⟨a, c, p, -, h⟩ := hst <;> rw [h]
    · exact (exec_keepsCfg i (takeStimulus st rest s)).andThen fun u hu => hu ▸ resume_keepsCfg u
    · simp
    · simp
    · exact .whenHostFree (startRequest_keepsCfg _ _ _ _ (takeStimulus st rest s))
    · exact .whenHostFree (startRequest_keepsCfg _ _ _ _ (takeStimulus st rest s))

/-- Settles O50: a step is `exec` and `resume` on the stimulus taken, the reset, or the start of a host call, and none of
them writes a parameter. -/
theorem parametersNeverChange : Obligations.ParametersNeverChange := by
  unfold Obligations.ParametersNeverChange
  exact step_keepsCfg

end Sys2Proof.Machine
end

section
/-! PROOF. Postconditions of results. One rule per way in which the operations are put together, so that a property is shown
operation by operation, from the guards up to the step. -/

namespace Sys2Proof.Machine

/-- `P` holds of the next state, where there is one, and the result is a fault only if `F`: `Ends False` excludes faults,
`Ends True` speaks of next states alone. -/
def Ends (F : Prop) (P : State → Prop) : Result → Prop
  | .next t => P t
  | .fault _ => F
  | .refused _ => True

variable {F : Prop} {P Q : State → Prop} {r : Result} {s : State} {k : State → Result}

@[simp] theorem ends_next (t : State) : Ends F P (.next t) ↔ P t := Iff.rfl
@[simp] theorem ends_refused (q : Refusal) : Ends F P (.refused q) := trivial

theorem Ends.of_eq_next {t : State} (h : Ends F P r) (hr : r = .next t) : P t := by
  subst hr
  exact h

theorem Ends.ne_fault (h : Ends False P r) (f : Fault) : r ≠ .fault f := by
  rintro rfl
  exact h

theorem Ends.mono (h : Ends F P r) (hPQ : ∀ t, P t → Q t) : Ends F Q r := by
  cases r with
  | next t => exact hPQ t h
  | fault f => exact h
  | refused q => trivial

theorem Ends.andThen (h : Ends F P r) (hk : ∀ t, P t → Ends F Q (k t)) : Ends F Q (andThen r k) := by
  cases r with
  | next t => exact hk t h
  | fault f => exact h
  | refused q => trivial

theorem Ends.whenIdle (h : s.rxState = .idle → Ends F P (k s)) : Ends F P (whenIdle s k) := by
  cases hs : s.rxState with
  | idle => rw [whenIdle_idle s k hs]; exact h hs
  | run => rw [whenIdle_run s k hs]; trivial

theorem Ends.whenHostFree (h : s.host = .idle → Ends F P (k s)) : Ends F P (whenHostFree s k) := by
  cases hs : s.host with
  | idle => rw [whenHostFree_idle s k hs]; exact h hs
  | waiting call => simp [Machine.whenHostFree, hs]

/-- Issuing `RX_START` is armed, or refused. -/
theorem Ends.startReceive {d : Word} (h : s.rxState = .idle → 1 ≤ d.toNat → P (armFramer d s)) :
    Ends F P (startReceive d s) := by
  refine .whenIdle fun hs => ?_
  split
  · next hd => exact h hs (of_decide_eq_true hd)
  · trivial

/-- `RECEIVE` arms and waits, or is refused (R105). -/
theorem Ends.execReceive {d : Word} (h : s.rxState = .idle → 1 ≤ d.toNat → P (hostWaits .receive (armFramer d s))) :
    Ends F P (execReceive d s) := by
  refine .whenHostFree fun _ => ?_
  have hstart : Ends F (fun t => P (hostWaits .receive t)) (Machine.startReceive d s) := .startReceive h
  exact hstart.andThen fun t ht => ht

theorem Ends.execEncode {address : Word} {command : Byte} {payload : List Byte}
    (h : s.rxState = .idle → P (encodeInto address command payload s)) :
    Ends F P (execEncode address command payload s) :=
  .whenIdle h

end Sys2Proof.Machine
end

section
/-! PROOF. The invariant in three parts, the receive side, the transmit side and the host, each kept by every operation that
leaves its registers alone. -/

namespace Sys2Proof.Machine

/-- What holds of `RXBUF` at every point of a tick too (R15, R18, R20). -/
structure State.BufferInv (s : State) : Prop where
  rxbuf_prefix : s.rxbuf.map Prod.fst = List.range s.rxI.toNat
  rxI_le : s.rxI.toNat ≤ s.cfg.rxCap
  overrun_full : s.rxOvf = true → s.rxI.toNat = s.cfg.rxCap

/-- The part of `State.Inv` about the receive registers. -/
structure State.FramerInv (s : State) : Prop extends s.BufferInv where
  run_budget : s.rxState = .run → 1 ≤ s.rxIb.toNat ∧ s.rxIb.toNat ≤ s.cfg.ibWindow.toNat
  run_outcome : s.rxState = .run → s.rxOutcome = .none
  run_deadline : s.rxState = .run → s.rxDl.toNat = 0 → 1 ≤ s.rxI.toNat
  rxOutcome_legal : s.rxOutcome ≠ .addressOutOfRange ∧ s.rxOutcome ≠ .payloadTooLarge
  ok_decoded : s.rxOutcome = .ok → s.decodedOk = true
  timeout_empty : s.rxOutcome = .timeout → s.rxI.toNat = 0 ∧ s.rxDl.toNat = 0
  overrun_flag : s.rxOutcome = .rxOverrun → s.rxOvf = true

/-- The part of `State.Inv` about the transmit registers. -/
structure State.TransmitInv (s : State) : Prop where
  txbuf_prefix : s.txbuf.map Prod.fst = List.range s.txLen.toNat
  txLen_le : s.txLen.toNat ≤ s.cfg.txCap
  encOutcome_legal : s.encOutcome = .none ∨ s.encOutcome = .ok ∨ s.encOutcome = .addressOutOfRange ∨
    s.encOutcome = .payloadTooLarge
  enc_ok : s.encOutcome = .ok → 5 ≤ s.txLen.toNat
  enc_not_ok : s.encOutcome ≠ .ok → s.txLen.toNat = 0

/-- `State.Inv` without the host: what holds between the tick that ends a receive and the return of the blocked call. -/
structure State.RegsInv (s : State) : Prop where
  framer : s.FramerInv
  transmit : s.TransmitInv

variable {s t : State}

theorem State.Inv.regs (h : s.Inv) : s.RegsInv where
  framer :=
    { rxbuf_prefix := h.rxbuf_prefix, rxI_le := h.rxI_le, overrun_full := h.overrun_full, run_budget := h.run_budget,
      run_outcome := h.run_outcome, run_deadline := h.run_deadline, rxOutcome_legal := h.rxOutcome_legal,
      ok_decoded := h.ok_decoded, timeout_empty := h.timeout_empty, overrun_flag := h.overrun_flag }
  transmit :=
    { txbuf_prefix := h.txbuf_prefix, txLen_le := h.txLen_le, encOutcome_legal := h.encOutcome_legal,
      enc_ok := h.enc_ok, enc_not_ok := h.enc_not_ok }

theorem State.RegsInv.inv (h : s.RegsInv) (hw : s.host = .idle ∨ s.rxState = .run) : s.Inv :=
  { h.framer, h.transmit with host_waits := hw }

/-- The state with only its receive registers kept: states that agree on it agree on `RX_*`, `RXBUF` and `DEC_*`. -/
def State.framerPart (s : State) : State :=
  { State.reset with
    cfg := s.cfg, rxState := s.rxState, rxI := s.rxI, rxIb := s.rxIb, rxDl := s.rxDl, rxOvf := s.rxOvf,
    rxOutcome := s.rxOutcome, rxbuf := s.rxbuf, decAddr := s.decAddr, decCmd := s.decCmd, decPlen := s.decPlen }

/-- The state with only its transmit registers kept. -/
def State.transmitPart (s : State) : State :=
  { State.reset with cfg := s.cfg, txbuf := s.txbuf, txLen := s.txLen, encOutcome := s.encOutcome }

theorem framerInv_framerPart : s.framerPart.FramerInv ↔ s.FramerInv :=
  ⟨fun h => { h with }, fun h => { h with }⟩

theorem transmitInv_transmitPart : s.transmitPart.TransmitInv ↔ s.TransmitInv :=
  ⟨fun h => { h with }, fun h => { h with }⟩

theorem State.FramerInv.congr (h : s.FramerInv) (e : t.framerPart = s.framerPart) : t.FramerInv :=
  framerInv_framerPart.1 (e ▸ framerInv_framerPart.2 h)

theorem State.TransmitInv.congr (h : s.TransmitInv) (e : t.transmitPart = s.transmitPart) : t.TransmitInv :=
  transmitInv_transmitPart.1 (e ▸ transmitInv_transmitPart.2 h)

theorem State.RegsInv.congr (h : s.RegsInv) (hf : t.framerPart = s.framerPart) (ht : t.transmitPart = s.transmitPart) :
    t.RegsInv :=
  ⟨h.framer.congr hf, h.transmit.congr ht⟩

theorem rxState_of_framerPart (e : t.framerPart = s.framerPart) : t.rxState = s.rxState :=
  (congrArg State.rxState e :)

theorem State.Inv.congr (h : s.Inv) (hf : t.framerPart = s.framerPart) (ht : t.transmitPart = s.transmitPart)
    (hh : t.host = s.host) : t.Inv := by
  refine (h.regs.congr hf ht).inv ?_
  exact hh ▸ h.host_waits.imp_right (rxState_of_framerPart hf).trans

end Sys2Proof.Machine
end

section
/-! PROOF. The invariant under the operations that write registers: the tick, arming, `ENCODE`, `DECODE`, the reset input. -/

namespace Sys2Proof.Machine

variable {s : State}

/-- A tick finds `RX_IB` between 1 and `IB_WINDOW` after step 1. -/
theorem budgetAfterPoll_bounds (h : s.FramerInv) (hs : s.rxState = .run) :
    1 ≤ s.budgetAfterPoll.toNat ∧ s.budgetAfterPoll.toNat ≤ s.cfg.ibWindow.toNat := by
  unfold State.budgetAfterPoll
  split
  · exact h.run_budget hs
  · exact ⟨s.cfg.ibWindow_pos, le_rfl⟩

theorem afterCountdowns_rxIb_le (h : s.FramerInv) (hs : s.rxState = .run) :
    s.afterCountdowns.rxIb.toNat ≤ s.cfg.ibWindow.toNat := by
  obtain ⟨hpos, hle⟩ := budgetAfterPoll_bounds h hs
  rw [afterCountdowns_rxIb]
  split
  · exact hle
  · rw [toNat_sub_one _ ((one_le_toNat_iff _).1 hpos)]
    omega

/-- The flag and the counter go together: a full buffer takes no byte, and only a full buffer sets the flag (R98). -/
theorem afterCountdowns_overrun_full (h : s.BufferInv) (ho : s.afterCountdowns.rxOvf = true) :
    s.afterCountdowns.rxI.toNat = s.cfg.rxCap := by
  have hfull : s.rxI.toNat = s.cfg.rxCap := by
    simp only [afterCountdowns_rxOvf, Bool.or_eq_true, Bool.and_eq_true, decide_eq_true_eq] at ho
    obtain ho | ⟨-, ho⟩ := ho
    · exact h.overrun_full ho
    · exact le_antisymm h.rxI_le ho
  simp [State.countAfterPoll, hfull]

theorem afterCountdowns_bufferInv (h : s.BufferInv) : s.afterCountdowns.BufferInv where
  rxbuf_prefix := map_fst_bufferAfterPoll s h.rxbuf_prefix
  rxI_le := countAfterPoll_le s h.rxI_le
  overrun_full := afterCountdowns_overrun_full h

/-- The receive ends in an error, with what R134 (c) and (d) ask of the two errors that are not the decoder's. -/
theorem raiseFramer_framerInv (h : s.BufferInv) {e : Status} (hok : e ≠ .ok)
    (hlegal : e ≠ .addressOutOfRange ∧ e ≠ .payloadTooLarge)
    (htimeout : e = .timeout → s.rxI.toNat = 0 ∧ s.rxDl.toNat = 0) (hoverrun : e = .rxOverrun → s.rxOvf = true) :
    (raiseError .framer e s).FramerInv where
  rxbuf_prefix := h.rxbuf_prefix
  rxI_le := h.rxI_le
  overrun_full := h.overrun_full
  run_budget := nofun
  run_outcome := nofun
  run_deadline := nofun
  rxOutcome_legal := hlegal
  ok_decoded := fun ho => absurd ho hok
  timeout_empty := htimeout
  overrun_flag := hoverrun

/-- `DEC_PLEN` is the payload's length (R23): a decoded frame has 5 bytes more. -/
theorem decodedOk_of_bound {u : State} {m : Message} (h : u.rxbuf.map Prod.fst = List.range u.rxI.toNat)
    (hm : decodeFrame u.cfg.aw (u.rxbuf.map Prod.snd) = .ok m) (ha : u.decAddr = m.address) (hc : u.decCmd = m.command)
    (hp : u.decPlen = u.rxI - 5#16) : u.decodedOk = true := by
  have hlen : m.payload.length + 5 = u.rxI.toNat := by
    have := (decodeFrame_eq_ok _ _ _ hm).2.1
    rw [this, List.length_map]
    simpa using congrArg List.length h
  have hplen : u.decPlen.toNat = m.payload.length := by
    rw [hp, BitVec.toNat_sub_of_le (by rw [BitVec.le_def, BitVec.toNat_ofNat]; omega), BitVec.toNat_ofNat]
    omega
  simp [State.decodedOk, decodeBuffer_of_prefix u h, hm, ha, hc, hplen]

/-- The receive ends in `OK`. -/
theorem bindMessage_framerInv (h : s.BufferInv) {m : Message}
    (hm : decodeFrame s.cfg.aw (s.rxbuf.map Prod.snd) = .ok m) :
    { bindMessage m s with rxOutcome := .ok, rxState := .idle }.FramerInv where
  rxbuf_prefix := h.rxbuf_prefix
  rxI_le := h.rxI_le
  overrun_full := h.overrun_full
  run_budget := nofun
  run_outcome := nofun
  run_deadline := nofun
  rxOutcome_legal := ⟨nofun, nofun⟩
  ok_decoded := fun _ => decodedOk_of_bound h.rxbuf_prefix hm rfl rfl rfl
  timeout_empty := nofun
  overrun_flag := nofun

theorem endBySilence_framerInv (h : s.BufferInv) : Ends False State.FramerInv (endBySilence s) := by
  obtain ⟨ho, he⟩ | ⟨-, m, hm, he⟩ | ⟨-, e, hm, he⟩ := endBySilence_cases s h.rxbuf_prefix <;> rw [he, ends_next]
  · exact raiseFramer_framerInv h nofun ⟨nofun, nofun⟩ nofun fun _ => ho
  · exact bindMessage_framerInv h hm
  · obtain ⟨-, rfl⟩ | ⟨-, rfl⟩ := decodeFrame_eq_error _ _ _ hm <;>
      exact raiseFramer_framerInv h nofun ⟨nofun, nofun⟩ nofun nofun

/-- A tick that does not end the receive leaves budgets above their tests. -/
theorem afterCountdowns_framerInv (h : s.FramerInv) (hs : s.rxState = .run) (hib : s.afterCountdowns.rxIb ≠ 0#16)
    (hdl : ¬ (s.afterCountdowns.rxDl = 0#16 ∧ s.afterCountdowns.rxI = 0#16)) : s.afterCountdowns.FramerInv :=
  { afterCountdowns_bufferInv h.toBufferInv with
    run_budget := fun _ => ⟨(one_le_toNat_iff _).2 hib, afterCountdowns_rxIb_le h hs⟩
    run_outcome := h.run_outcome
    run_deadline := fun _ hz => (one_le_toNat_iff _).2 fun hI => hdl ⟨(toNat_eq_zero_iff _).1 hz, hI⟩
    rxOutcome_legal := h.rxOutcome_legal
    ok_decoded := fun ho => by simp [h.run_outcome hs] at ho
    timeout_empty := fun ho => by simp [h.run_outcome hs] at ho
    overrun_flag := fun ho => by simp [h.run_outcome hs] at ho }

theorem execRxTick_framerInv (h : s.FramerInv) : Ends False State.FramerInv (execRxTick s) := by
  cases hs : s.rxState with
  | idle => rw [execRxTick_idle s hs]; exact h
  | run =>
    rw [execRxTick_run s hs]
    have hb := afterCountdowns_bufferInv h.toBufferInv
    obtain ⟨-, he⟩ | ⟨-, hdl, hI, he⟩ | ⟨hib, hdl, he⟩ := tickTerminate_cases s.afterCountdowns <;> rw [he]
    · exact endBySilence_framerInv hb
    · have hempty := And.intro ((toNat_eq_zero_iff _).2 hI) ((toNat_eq_zero_iff _).2 hdl)
      exact raiseFramer_framerInv hb nofun ⟨nofun, nofun⟩ (fun _ => hempty) nofun
    · exact afterCountdowns_framerInv h hs hib hdl

theorem armFramer_framerInv (s : State) {d : Word} (hd : 1 ≤ d.toNat) : (armFramer d s).FramerInv where
  rxbuf_prefix := rfl
  rxI_le := Nat.zero_le _
  overrun_full := nofun
  run_budget := fun _ => ⟨s.cfg.ibWindow_pos, le_rfl⟩
  run_outcome := fun _ => rfl
  run_deadline := fun _ hz => absurd hz (Nat.one_le_iff_ne_zero.1 hd)
  rxOutcome_legal := ⟨nofun, nofun⟩
  ok_decoded := nofun
  timeout_empty := nofun
  overrun_flag := nofun

theorem raiseCodec_transmitInv (s : State) {e : Status} (he : e = .addressOutOfRange ∨ e = .payloadTooLarge) :
    (raiseError .codec e s).TransmitInv where
  txbuf_prefix := rfl
  txLen_le := Nat.zero_le _
  encOutcome_legal := .inr (.inr he)
  enc_ok := by obtain rfl | rfl := he <;> nofun
  enc_not_ok := fun _ => rfl

theorem storeFrame_transmitInv {address : Word} {command : Byte} {payload f : List Byte}
    (hf : encodeFrame s.cfg address command payload = .ok f) : (storeFrame f s).TransmitInv := by
  obtain ⟨hlen, hcap, hlt⟩ := length_encodeFrame _ _ _ _ _ hf
  have hn : (storeFrame f s).txLen.toNat = f.length := by
    rw [storeFrame_txLen, BitVec.toNat_ofNat, Nat.mod_eq_of_lt hlt]
  constructor
  case txbuf_prefix =>
    rw [hn, storeFrame_txbuf, Memory.map_fst_writeAll_end f [] 0 rfl, Nat.zero_add]
  case txLen_le => rwa [hn]
  case encOutcome_legal => exact .inr (.inl rfl)
  case enc_ok => exact fun _ => by omega
  case enc_not_ok => exact fun h => absurd rfl h

theorem encodeInto_transmitInv (address : Word) (command : Byte) (payload : List Byte) (s : State) :
    (encodeInto address command payload s).TransmitInv := by
  obtain ⟨f, hf, he⟩ | ⟨e, hf, he⟩ := encodeInto_cases address command payload s <;> rw [he]
  · exact storeFrame_transmitInv hf
  · exact raiseCodec_transmitInv s ((encodeFrame_eq_error _ _ _ _ _ hf).imp (·.2) (·.2.2))

@[simp] theorem encodeInto_framerPart (address : Word) (command : Byte) (payload : List Byte) (s : State) :
    (encodeInto address command payload s).framerPart = s.framerPart := by
  obtain ⟨f, -, he⟩ | ⟨e, -, he⟩ := encodeInto_cases address command payload s <;> rw [he] <;> rfl

@[simp] theorem encodeInto_rxState (address : Word) (command : Byte) (payload : List Byte) (s : State) :
    (encodeInto address command payload s).rxState = s.rxState := by
  obtain ⟨f, -, he⟩ | ⟨e, -, he⟩ := encodeInto_cases address command payload s <;> rw [he] <;> rfl

@[simp] theorem encodeInto_host (address : Word) (command : Byte) (payload : List Byte) (s : State) :
    (encodeInto address command payload s).host = s.host := by
  obtain ⟨f, -, he⟩ | ⟨e, -, he⟩ := encodeInto_cases address command payload s <;> rw [he] <;> rfl

/-- `DECODE` on its own writes `DEC_*` only, and after `OK` it finds the message that stands there. -/
theorem execDecode_inv (h : s.Inv) : Ends False State.Inv (execDecode s) := by
  unfold execDecode
  rw [decodeBuffer_of_prefix s h.rxbuf_prefix]
  cases hm : decodeFrame s.cfg.aw (s.rxbuf.map Prod.snd) with
  | ok m => exact { h with ok_decoded := fun _ => decodedOk_of_bound h.rxbuf_prefix hm rfl rfl rfl }
  | error e =>
    have hne : s.rxOutcome ≠ .ok := fun ho => by
      obtain ⟨m, hm', -⟩ := hostReadMessage_of_ok s h.rxbuf_prefix ho (h.ok_decoded ho)
      rw [hm] at hm'
      cases hm'
    exact { h with ok_decoded := fun ho => absurd ho hne }

/-- R29's values meet the invariant, whatever stands in `DEC_*`, the transport and the parameters. -/
theorem inv_of_resetValues (hstate : s.rxState = .idle) (hI : s.rxI = 0#16) (hovf : s.rxOvf = false)
    (hout : s.rxOutcome = .none) (hrx : s.rxbuf = []) (htx : s.txbuf = []) (hlen : s.txLen = 0#16)
    (henc : s.encOutcome = .none) (hhost : s.host = .idle) : s.Inv where
  rxbuf_prefix := by rw [hrx, hI]; rfl
  rxI_le := by rw [hI]; exact Nat.zero_le _
  txbuf_prefix := by rw [htx, hlen]; rfl
  txLen_le := by rw [hlen]; exact Nat.zero_le _
  run_budget := by rw [hstate]; nofun
  run_outcome := by rw [hstate]; nofun
  run_deadline := by rw [hstate]; nofun
  overrun_full := by rw [hovf]; nofun
  rxOutcome_legal := by rw [hout]; exact ⟨nofun, nofun⟩
  encOutcome_legal := .inl henc
  ok_decoded := by rw [hout]; nofun
  timeout_empty := by rw [hout]; nofun
  overrun_flag := by rw [hout]; nofun
  enc_ok := by rw [henc]; nofun
  enc_not_ok := fun _ => by rw [hlen]; rfl
  host_waits := .inl hhost

theorem applyReset_inv (s : State) : (applyReset s).Inv :=
  inv_of_resetValues rfl rfl rfl rfl rfl rfl rfl rfl rfl

end Sys2Proof.Machine
end

section
/-! PROOF. What an instruction leaves alone, from every state (R13, R14, R24, R112). -/

namespace Sys2Proof.Machine

variable {F : Prop}

/-- `t` has the registers and the host's phase of `s`; the ports, the transport and the cache may differ. -/
structure SameRegs (s t : State) : Prop where
  framer : t.framerPart = s.framerPart
  transmit : t.transmitPart = s.transmitPart
  host : t.host = s.host

theorem SameRegs.inv {s t : State} (e : SameRegs s t) (h : s.Inv) : t.Inv :=
  h.congr e.framer e.transmit e.host

theorem SameRegs.rxState {s t : State} (e : SameRegs s t) : t.rxState = s.rxState :=
  rxState_of_framerPart e.framer

theorem execCrc16_sameRegs (bytes : List Byte) (s : State) : Ends F (SameRegs s) (execCrc16 bytes s) :=
  .whenIdle fun _ => ⟨rfl, rfl, rfl⟩

theorem execTRead_sameRegs (s : State) : Ends F (SameRegs s) (execTRead s) := by
  cases htq : s.tq with
  | nil => simp [execTRead, tRead, htq]
  | cons b rest =>
    simp only [execTRead, tRead, htq]
    exact ⟨rfl, rfl, rfl⟩

/-- The request port idle, `CRC16`, the transport and arriving frames touch neither side of the block. -/
theorem exec_sameRegs (i : Instr) (s : State) (hstart : issuesRxStart i = false) (hencode : issuesEncode i = false)
    (htick : i ≠ .rxTick) (hdecode : i ≠ .decode) : Ends F (SameRegs s) (exec i s) := by
  cases i with
  | crc16 bytes => exact execCrc16_sameRegs bytes s
  | tRead => exact execTRead_sameRegs s
  | noRequest | tAvail | tWrite _ | tDiscard | frame _ _ _ | frameMin _ _ => exact ⟨rfl, rfl, rfl⟩
  | rxTick => exact absurd rfl htick
  | decode => exact absurd rfl hdecode
  | rxStart _ | receive _ | request _ _ _ | localRead | cmdD6 _ _ => cases hstart
  | encode _ _ _ => cases hencode

theorem execDecode_leaves (s : State) :
    Ends True (fun t => t.rxState = s.rxState ∧ t.transmitPart = s.transmitPart) (execDecode s) := by
  unfold execDecode
  split
  · trivial
  · exact ⟨rfl, rfl⟩
  · exact ⟨rfl, rfl⟩

theorem endBySilence_leaves (s : State) :
    Ends True (fun t => t.transmitPart = s.transmitPart ∧ t.host = s.host) (endBySilence s) := by
  unfold endBySilence
  split
  · exact ⟨rfl, rfl⟩
  · split
    · trivial
    · exact ⟨rfl, rfl⟩
    · exact ⟨rfl, rfl⟩

/-- A tick leaves the transmit side and the host, from every state (R112, R114). -/
theorem execRxTick_leaves (s : State) :
    Ends True (fun t => t.transmitPart = s.transmitPart ∧ t.host = s.host) (execRxTick s) := by
  cases hs : s.rxState with
  | idle => rw [execRxTick_idle s hs]; exact ⟨rfl, rfl⟩
  | run =>
    rw [execRxTick_run s hs]
    obtain ⟨-, he⟩ | ⟨-, -, -, he⟩ | ⟨-, -, he⟩ := tickTerminate_cases s.afterCountdowns <;> rw [he]
    · exact endBySilence_leaves s.afterCountdowns
    · exact ⟨rfl, rfl⟩
    · exact ⟨rfl, rfl⟩

end Sys2Proof.Machine
end

section
/-! PROOF. The return of a blocked call: it leaves the registers alone, or the bootstrap asks again (R118 to R125). -/

namespace Sys2Proof.Machine

variable {s : State}

theorem finishCall_leaves (call : Call) (m : Message) (s : State) :
    (finishCall call m s).framerPart = s.framerPart ∧ (finishCall call m s).transmitPart = s.transmitPart ∧
      (finishCall call m s).host = .idle := by
  cases call with
  | configure requested =>
    simp only [finishCall]
    split <;> exact ⟨rfl, rfl, rfl⟩
  | receive | request _ | localRead | bootstrap _ | identityStore _ _ => exact ⟨rfl, rfl, rfl⟩

theorem failCall_cases (call : Call) (s : State) :
    failCall call s = .next (raiseToHost (.status s.rxOutcome) s) ∨
    ∃ left left', call = .bootstrap left ∧
      failCall call s = startIdentityQuery (.bootstrap left') { s with host := .idle } := by
  cases call with
  | bootstrap left =>
    simp only [failCall]
    split
    · next left' _ _ => exact .inr ⟨left, left', rfl, rfl⟩
    · exact .inl rfl
  | receive | request _ | localRead | configure _ | identityStore _ _ => exact .inl rfl

/-- Where the message of a receive that ended in `OK` can be read, a blocked call returns with the registers as they are, or is
a bootstrap that starts its query again. -/
theorem completeCall_cases (call : Call) (h : s.FramerInv) :
    (∃ u, completeCall call s = .next u ∧ u.framerPart = s.framerPart ∧ u.transmitPart = s.transmitPart ∧
      u.host = .idle) ∨
    ∃ left left', call = .bootstrap left ∧
      completeCall call s = startIdentityQuery (.bootstrap left') { s with host := .idle } := by
  unfold completeCall
  split
  · next ho =>
    obtain ⟨m, -, -, -, -, -, hm⟩ := hostReadMessage_of_ok s h.rxbuf_prefix ho (h.ok_decoded ho)
    rw [hm]
    have hfinish := finishCall_leaves call m s
    dsimp only
    split
    · exact .inl ⟨_, rfl, hfinish⟩
    · split
      · exact .inl ⟨_, rfl, hfinish⟩
      · exact .inl ⟨_, rfl, rfl, rfl, rfl⟩
  · obtain he | he := failCall_cases call s
    · exact .inl ⟨_, he, rfl, rfl, rfl⟩
    · exact .inr he

theorem State.Inv.resume_eq_next (h : s.Inv) : resume s = .next s := by
  obtain hh | hr := h.host_waits
  · exact resume_of_host_idle s hh
  · exact resume_of_run s hr

end Sys2Proof.Machine
end

section
/-! PROOF. Every step keeps the invariant and none faults (R15 to R26): `RX_TICK` keeps it up to the host's phase, which
`resume` restores; every other instruction keeps it as it stands. -/

namespace Sys2Proof.Machine

variable {s : State}

/-- While a receive runs, a request is refused, or fails its address check before it reaches the block. -/
theorem startRequest_of_run (call : Call) (address : Word) (command : Byte) (payload : List Byte)
    (hs : s.rxState = .run) :
    startRequest call address command payload s = .refused .requestWhileRunning ∨
    startRequest call address command payload s = .next (raiseToHost (.status .addressOutOfRange) s) := by
  unfold startRequest
  split
  · exact .inl (whenIdle_run s _ hs)
  · exact .inr rfl

theorem raiseToHost_inv (e : HostError) (h : s.RegsInv) : (raiseToHost e s).Inv :=
  (h.congr (t := raiseToHost e s) rfl rfl).inv (.inl rfl)

/-- An armed framer with the host's call on it. -/
theorem hostWaits_armFramer_inv (call : Call) (h : s.TransmitInv) {d : Word} (hd : 1 ≤ d.toNat) :
    (hostWaits call (armFramer d s)).Inv :=
  State.RegsInv.inv ⟨(armFramer_framerInv s hd).congr rfl, h.congr rfl⟩ (.inr rfl)

theorem startRequest_inv (call : Call) (address : Word) (command : Byte) (payload : List Byte) (h : s.RegsInv) :
    Ends False State.Inv (startRequest call address command payload s) := by
  cases hs : s.rxState with
  | run =>
    obtain he | he := startRequest_of_run call address command payload hs <;> rw [he]
    · trivial
    · exact raiseToHost_inv _ h
  | idle =>
    obtain ⟨-, he⟩ | ⟨-, -, he⟩ | ⟨f, hf, he⟩ := startRequest_cases call address command payload s hs <;> rw [he]
    · exact raiseToHost_inv _ h
    · exact raiseToHost_inv _ ⟨h.framer.congr rfl, raiseCodec_transmitInv s (.inr rfl)⟩
    · have ht : (tDiscard (tWrite f (storeFrame f s))).TransmitInv := (storeFrame_transmitInv hf).congr rfl
      exact hostWaits_armFramer_inv call ht s.cfg.deadlineDefault_pos

theorem encodeInto_inv (address : Word) (command : Byte) (payload : List Byte) (h : s.Inv) :
    (encodeInto address command payload s).Inv := by
  have hf := h.regs.framer.congr (encodeInto_framerPart address command payload s)
  refine State.RegsInv.inv ⟨hf, encodeInto_transmitInv address command payload s⟩ ?_
  simpa using h.host_waits

/-- Every instruction but the tick leaves no call waiting for an ended receive. -/
theorem exec_inv (i : Instr) (hi : i ≠ .rxTick) (h : s.Inv) : Ends False State.Inv (exec i s) := by
  cases i with
  | encode address command payload => exact .execEncode fun _ => encodeInto_inv address command payload h
  | rxStart deadline =>
    exact .startReceive fun _ hd =>
      State.RegsInv.inv ⟨armFramer_framerInv s hd, h.regs.transmit.congr rfl⟩ (.inr rfl)
  | rxTick => exact absurd rfl hi
  | decode => exact execDecode_inv h
  | receive deadline => exact .execReceive fun _ hd => hostWaits_armFramer_inv .receive h.regs.transmit hd
  | noRequest | crc16 _ | tAvail | tRead | tWrite _ | tDiscard | frame _ _ _ | frameMin _ _ =>
    exact Ends.mono (exec_sameRegs _ s rfl rfl nofun nofun) fun _ e => e.inv h
  | request _ _ _ | localRead | cmdD6 _ _ => exact .whenHostFree fun _ => startRequest_inv _ _ _ _ h.regs

/-- Every instruction but the tick is a step's whole work: no call returns after it. -/
theorem andThen_exec_resume (i : Instr) (hi : i ≠ .rxTick) (h : s.Inv) : andThen (exec i s) resume = exec i s := by
  have hx := exec_inv i hi h
  cases he : exec i s with
  | next t => exact (hx.of_eq_next he).resume_eq_next
  | fault f => rfl
  | refused q => rfl

theorem execRxTick_regsInv (h : s.RegsInv) : Ends False State.RegsInv (execRxTick s) := by
  have hframer := execRxTick_framerInv h.framer
  have hleaves := execRxTick_leaves s
  cases he : execRxTick s with
  | next t => exact ⟨hframer.of_eq_next he, h.transmit.congr (hleaves.of_eq_next he).1⟩
  | fault f => exact hframer.ne_fault f he
  | refused q => trivial

theorem resume_inv (h : s.RegsInv) : Ends False State.Inv (resume s) := by
  cases hh : s.host with
  | idle => rw [resume_of_host_idle s hh]; exact h.inv (.inl hh)
  | waiting call =>
    cases hs : s.rxState with
    | run => rw [resume_of_run s hs]; exact h.inv (.inr hs)
    | idle =>
      rw [resume_waiting s call hh hs]
      obtain ⟨u, he, hf, ht, hu⟩ | ⟨left, left', -, he⟩ := completeCall_cases call h.framer <;> rw [he]
      · exact (h.congr hf ht).inv (.inl hu)
      · exact startRequest_inv _ _ _ _ (h.congr rfl rfl)

/-- A decoded word, with the return of a blocked call after it. -/
theorem runInstr_inv (i : Instr) (h : s.Inv) : Ends False State.Inv (andThen (exec i s) resume) := by
  by_cases hi : i = .rxTick
  · subst hi
    exact (execRxTick_regsInv h.regs).andThen fun t ht => resume_inv ht
  · rw [andThen_exec_resume i hi h]
    exact exec_inv i hi h

theorem takeStimulus_inv (st : Stimulus) (rest : List Stimulus) (h : s.Inv) : (takeStimulus st rest s).Inv :=
  h.congr rfl rfl rfl

theorem step_inv (h : s.Inv) : Ends False State.Inv (step s) := by
  obtain ⟨-, he⟩ | ⟨st, rest, -, hst⟩ := step_cases s
  · rw [he]; exact h
  · have h' := takeStimulus_inv st rest h
    obtain ⟨_, _, i, -, -, he⟩ | ⟨_, _, e, -, -, he⟩ | ⟨-, he⟩ | ⟨-, he⟩ | ⟨a, c, p, -, he⟩ := hst <;> rw [he]
    · exact runInstr_inv i h'
    · trivial
    · exact applyReset_inv _
    · exact .whenHostFree fun _ => startRequest_inv _ _ _ _ h'.regs
    · exact .whenHostFree fun _ => startRequest_inv _ _ _ _ h'.regs

/-- Settles O57: the postcondition of `step_inv`, which goes through the operations of every stimulus. -/
theorem stepKeepsTheInvariant : Obligations.StepKeepsTheInvariant := by
  unfold Obligations.StepKeepsTheInvariant
  exact fun s t h ht => (step_inv h).of_eq_next ht

/-- Settles O58: the same run over the operations rules out a fault in every branch. -/
theorem invariantStatesAreSafe : Obligations.InvariantStatesAreSafe := by
  unfold Obligations.InvariantStatesAreSafe
  exact fun s h => (step_inv h).ne_fault

end Sys2Proof.Machine
end

section
/-! PROOF. The invariant after reset, and what it says of the received message. -/

namespace Sys2Proof.Machine

/-- Settles O55: the values are written out in `State.reset`, and both buffers are empty there. -/
theorem resetStateHasTheSpecValues : Obligations.ResetStateHasTheSpecValues := by
  unfold Obligations.ResetStateHasTheSpecValues
  exact ⟨rfl, rfl, rfl, rfl, rfl, rfl, rfl, rfl, fun k => ⟨Memory.read_nil k, Memory.read_nil k⟩⟩

/-- Settles O56: `State.reset` holds the values of `inv_of_resetValues`. -/
theorem resetMeetsTheInvariant : Obligations.ResetMeetsTheInvariant := by
  unfold Obligations.ResetMeetsTheInvariant
  exact inv_of_resetValues rfl rfl rfl rfl rfl rfl rfl rfl rfl

theorem hostReadMessage_of_ne_ok (s : State) (h : s.rxOutcome ≠ .ok) :
    hostReadMessage s = .error .undefinedDecode := by
  simp [hostReadMessage, hostReadDec, h]

/-- Settles O14: after `OK` the host reads the decoder's message (`hostReadMessage_of_ok`); the guard of the read refuses it
otherwise. -/
theorem messageReadableExactlyWhenOk : Obligations.MessageReadableExactlyWhenOk := by
  unfold Obligations.MessageReadableExactlyWhenOk
  refine fun s h => ⟨fun ho => ?_, hostReadMessage_of_ne_ok s⟩
  obtain ⟨m, hm, ha, hc, hp, hl, hread⟩ := hostReadMessage_of_ok s h.rxbuf_prefix ho (h.ok_decoded ho)
  exact ⟨m, s.rxbuf.map Prod.snd, hread, Memory.readRange_of_prefix _ _ h.rxbuf_prefix, hm, ha, hc, hp, hl.symm⟩

end Sys2Proof.Machine
end

section
/-! PROOF. Who changes `RX_STATE` (R14). -/

namespace Sys2Proof.Machine

variable {s t : State}

/-- An instruction that issues no `RX_START` and is no tick leaves `RX_STATE`. -/
theorem exec_keepsRxState (i : Instr) (s : State) (hstart : issuesRxStart i = false) (htick : i ≠ .rxTick) :
    Ends True (fun t => t.rxState = s.rxState) (exec i s) := by
  cases i with
  | encode address command payload => exact .execEncode fun _ => encodeInto_rxState address command payload s
  | decode => exact (execDecode_leaves s).mono fun _ h => h.1
  | rxTick => exact absurd rfl htick
  | noRequest | crc16 _ | tAvail | tRead | tWrite _ | tDiscard | frame _ _ _ | frameMin _ _ =>
    exact Ends.mono (exec_sameRegs _ s rfl rfl nofun nofun) fun _ e => e.rxState
  | rxStart _ | receive _ | request _ _ _ | localRead | cmdD6 _ _ => cases hstart

theorem startRequest_of_run_keepsRun (call : Call) (address : Word) (command : Byte) (payload : List Byte)
    (hs : s.rxState = .run) :
    Ends True (fun t => t.rxState = .run) (startRequest call address command payload s) := by
  obtain he | he := startRequest_of_run call address command payload hs <;> rw [he]
  · trivial
  · exact hs

/-- While a receive runs only the tick can end it: an `RX_START` is refused there, or leaves `RUN`. -/
theorem exec_of_run_keepsRun (i : Instr) (hs : s.rxState = .run) (htick : i ≠ .rxTick) :
    Ends True (fun t => t.rxState = .run) (exec i s) := by
  cases i with
  | rxStart _ => exact .startReceive fun _ _ => rfl
  | receive _ => exact .execReceive fun _ _ => rfl
  | request _ _ _ | localRead | cmdD6 _ _ =>
    exact .whenHostFree fun _ => startRequest_of_run_keepsRun _ _ _ _ hs
  | noRequest | crc16 _ | encode _ _ _ | rxTick | decode | tAvail | tRead | tWrite _ | tDiscard | frame _ _ _
  | frameMin _ _ => exact hs ▸ exec_keepsRxState _ s rfl htick

/-- R14 for an instruction. -/
theorem exec_changes_rxState {i : Instr} (he : exec i s = .next t) (hne : t.rxState ≠ s.rxState) :
    (s.rxState = .run → i = .rxTick) ∧ (s.rxState = .idle → issuesRxStart i = true) := by
  constructor
  · intro hs
    by_contra htick
    exact hne (hs ▸ (exec_of_run_keepsRun i hs htick).of_eq_next he)
  · intro hs
    by_contra hstart
    by_cases htick : i = .rxTick
    · subst htick
      cases (execRxTick_idle s hs).symm.trans he
      exact hne rfl
    · exact hne ((exec_keepsRxState i s (Bool.eq_false_of_not_eq_true hstart) htick).of_eq_next he)

/-- R14 for a word: a call that returns after a tick had its receive running before. -/
theorem runInstr_changes_rxState {i : Instr} (h : s.Inv) (he : andThen (exec i s) resume = .next t)
    (hne : t.rxState ≠ s.rxState) :
    s.rxState = .run ∧ i = .rxTick ∨ s.rxState = .idle ∧ issuesRxStart i = true := by
  have hword : exec i s = .next t → s.rxState = .run ∧ i = .rxTick ∨ s.rxState = .idle ∧ issuesRxStart i = true := by
    intro hx
    obtain ⟨hrun, hidle⟩ := exec_changes_rxState hx hne
    cases hs : s.rxState with
    | run => exact .inl ⟨rfl, hrun hs⟩
    | idle => exact .inr ⟨rfl, hidle hs⟩
  by_cases htick : i = .rxTick
  · subst htick
    cases hs : s.rxState with
    | run => exact .inl ⟨rfl, rfl⟩
    | idle =>
      have hx : exec .rxTick s = .next s := execRxTick_idle s hs
      rw [hx, andThen_next, h.resume_eq_next] at he
      cases he
      exact absurd rfl hne
  · exact hword (andThen_exec_resume i htick h ▸ he)

/-- The host's own stimuli change `RX_STATE` from `IDLE` only. -/
theorem startRequest_changes_rxState {call : Call} {address : Word} {command : Byte} {payload : List Byte}
    (he : startRequest call address command payload s = .next t) (hne : t.rxState ≠ s.rxState) : s.rxState = .idle := by
  cases hs : s.rxState with
  | idle => rfl
  | run => exact absurd ((startRequest_of_run_keepsRun _ _ _ _ hs).of_eq_next he) (hs ▸ hne)

/-- Settles O48: the instruction alone by `exec_changes_rxState`, the step by the kind of its stimulus. -/
theorem onlyReceiveOperationsChangeRxState : Obligations.OnlyReceiveOperationsChangeRxState := by
  unfold Obligations.OnlyReceiveOperationsChangeRxState
  refine ⟨fun i s t => exec_changes_rxState, fun s t h ht hne => ?_⟩
  obtain ⟨-, he⟩ | ⟨st, rest, hs, hst⟩ := step_cases s
  · cases he.symm.trans ht
    exact absurd rfl hne
  · refine ⟨st, rest, hs, ?_⟩
    have h' := takeStimulus_inv st rest h
    obtain ⟨f, bytes, i, hin, hd, he⟩ | ⟨_, _, e, -, -, he⟩ | ⟨hin, -⟩ | ⟨hin, he⟩ | ⟨a, c, p, hin, he⟩ := hst
    · have hword := runInstr_changes_rxState h' (he.symm.trans ht) hne
      exact .inr (.inr ⟨f, bytes, i, hin, hd, hword⟩)
    · cases he.symm.trans ht
    · exact .inl hin
    · obtain ⟨-, hreq⟩ := whenHostFree_eq_next _ _ _ (he.symm.trans ht)
      have hidle := startRequest_changes_rxState hreq hne
      exact .inr (.inl ⟨hidle, by rw [hin]; rfl⟩)
    · obtain ⟨-, hreq⟩ := whenHostFree_eq_next _ _ _ (he.symm.trans ht)
      have hidle := startRequest_changes_rxState hreq hne
      exact .inr (.inl ⟨hidle, by rw [hin]; rfl⟩)

end Sys2Proof.Machine
end

section
/-! PROOF. Who writes `TXBUF`, `TXLEN` and `ENC_OUTCOME` (R13, R24). -/

namespace Sys2Proof.Machine

variable {s t : State}

/-- States that agree on the transmit part differ in none of the three registers. -/
theorem transmitPart_ne_of_register_ne (h : t.txbuf ≠ s.txbuf ∨ t.txLen ≠ s.txLen ∨ t.encOutcome ≠ s.encOutcome) :
    t.transmitPart ≠ s.transmitPart := by
  intro e
  obtain h | h | h := h
  · exact h (congrArg State.txbuf e :)
  · exact h (congrArg State.txLen e :)
  · exact h (congrArg State.encOutcome e :)

theorem exec_keepsTransmitPart (i : Instr) (s : State) (hi : issuesEncode i = false) :
    Ends True (fun t => t.transmitPart = s.transmitPart) (exec i s) := by
  cases i with
  | rxStart deadline => exact .startReceive fun _ _ => rfl
  | rxTick => exact (execRxTick_leaves s).mono fun _ h => h.1
  | decode => exact (execDecode_leaves s).mono fun _ h => h.2
  | receive deadline => exact .execReceive fun _ _ => rfl
  | noRequest | crc16 _ | tAvail | tRead | tWrite _ | tDiscard | frame _ _ _ | frameMin _ _ =>
    exact Ends.mono (exec_sameRegs _ s rfl rfl nofun nofun) fun _ e => e.transmit
  | encode _ _ _ | request _ _ _ | localRead | cmdD6 _ _ => cases hi

/-- R13 for an instruction. -/
theorem exec_changes_transmitPart {i : Instr} (he : exec i s = .next t) (hne : t.transmitPart ≠ s.transmitPart) :
    issuesEncode i = true := by
  by_contra hi
  exact hne ((exec_keepsTransmitPart i s (Bool.eq_false_of_not_eq_true hi)).of_eq_next he)

/-- The return of a blocked call writes the transmit side only where the bootstrap asks again (R125, log 21). -/
theorem resume_changes_transmitPart (h : s.FramerInv) (he : resume s = .next t)
    (hne : t.transmitPart ≠ s.transmitPart) : ∃ left, s.host = .waiting (.bootstrap left) := by
  cases hh : s.host with
  | idle =>
    cases (resume_of_host_idle s hh).symm.trans he
    exact absurd rfl hne
  | waiting call =>
    cases hs : s.rxState with
    | run =>
      cases (resume_of_run s hs).symm.trans he
      exact absurd rfl hne
    | idle =>
      rw [resume_waiting s call hh hs] at he
      obtain ⟨u, hu, -, hpart, -⟩ | ⟨left, -, rfl, -⟩ := completeCall_cases call h
      · cases hu.symm.trans he
        exact absurd hpart hne
      · exact ⟨left, rfl⟩

/-- R13 for a word. -/
theorem runInstr_changes_transmitPart {i : Instr} (h : s.Inv) (he : andThen (exec i s) resume = .next t)
    (hne : t.transmitPart ≠ s.transmitPart) :
    issuesEncode i = true ∨ i = .rxTick ∧ ∃ left, s.host = .waiting (.bootstrap left) := by
  by_cases htick : i = .rxTick
  · subst htick
    obtain ⟨u, hu, hr⟩ := andThen_eq_next _ _ _ he
    obtain ⟨hpart, hhost⟩ := (execRxTick_leaves s).of_eq_next hu
    have hregs := (execRxTick_regsInv h.regs).of_eq_next hu
    exact .inr ⟨rfl, hhost ▸ resume_changes_transmitPart hregs.framer hr (hpart ▸ hne)⟩
  · exact .inl (exec_changes_transmitPart (andThen_exec_resume i htick h ▸ he) hne)

/-- Settles O49: the instruction alone by `exec_changes_transmitPart`, the step by the kind of its stimulus. -/
theorem onlyEncodeWritesTheTransmitSide : Obligations.OnlyEncodeWritesTheTransmitSide := by
  unfold Obligations.OnlyEncodeWritesTheTransmitSide
  refine ⟨fun i s t he hne => exec_changes_transmitPart he (transmitPart_ne_of_register_ne hne), fun s t h ht hne => ?_⟩
  obtain ⟨-, he⟩ | ⟨st, rest, hs, hst⟩ := step_cases s
  · cases he.symm.trans ht
    exact absurd rfl (transmitPart_ne_of_register_ne hne)
  · refine ⟨st, rest, hs, ?_⟩
    have h' := takeStimulus_inv st rest h
    obtain ⟨f, bytes, i, hin, hd, he⟩ | ⟨_, _, e, -, -, he⟩ | ⟨hin, -⟩ | ⟨hin, -⟩ | ⟨a, c, p, hin, -⟩ := hst
    · have hword := runInstr_changes_transmitPart h' (he.symm.trans ht) (transmitPart_ne_of_register_ne hne)
      exact .inr (.inr ⟨f, bytes, i, hin, hd, hword⟩)
    · cases he.symm.trans ht
    · exact .inl hin
    · exact .inr (.inl (by rw [hin]; rfl))
    · exact .inr (.inl (by rw [hin]; rfl))

end Sys2Proof.Machine
end

section
/-! PROOF. `ENCODE` on legal operands: the frame it makes and where that frame stands afterwards (R33, R49 to R54, R81). -/

namespace Sys2Proof.Machine

/-- The mask of R51 in the index map's form: `(2^AW - 1) >> 8` taken before it becomes a 16-bit word. -/
theorem addrMask_ushiftRight (aw : AddrWidth) : addrMask aw >>> 8 = BitVec.ofNat 16 ((2 ^ aw.bits - 1) >>> 8) := by
  cases aw <;> rfl

theorem encodeFrame_of_legal {c : Config} {address : Word} (command : Byte) {payload : List Byte}
    (ha : address.toNat ≤ c.aw.addrMax) (hp : payload.length < c.maxPayload) :
    encodeFrame c address command payload = .ok (withCrc (frameBody c.aw address command payload)) :=
  (encodeFrame_eq_ok _ _ _ _ _).2 ⟨decide_eq_true ha, decide_eq_true hp, rfl⟩

theorem exec_encode_of_ok {s : State} {address : Word} {command : Byte} {payload f : List Byte}
    (hs : s.rxState = .idle) (hf : encodeFrame s.cfg address command payload = .ok f) :
    exec (.encode address command payload) s = .next (storeFrame f s) := by
  simp only [exec, execEncode, whenIdle_idle _ _ hs, encodeInto, hf]

theorem toNat_storeFrame_txLen {f : List Byte} (s : State) (h : f.length < 2 ^ 16) :
    (storeFrame f s).txLen.toNat = f.length := by
  rw [storeFrame_txLen, BitVec.toNat_ofNat, Nat.mod_eq_of_lt h]

theorem read_storeFrame_txbuf (f : List Byte) (s : State) (k : Nat) :
    Memory.read (storeFrame f s).txbuf k = f[k]? := by
  rw [storeFrame_txbuf, Memory.read_writeAll]

/-- Settles O7: legal operands encode to the body of R49 with its CRC, and `storeFrame` leaves exactly that in `TXBUF`. -/
theorem encodeWritesTheFrame : Obligations.EncodeWritesTheFrame := by
  unfold Obligations.EncodeWritesTheFrame
  intro s address command payload hs ha hp body f
  have hf : encodeFrame s.cfg address command payload = .ok f := by
    rw [encodeFrame_of_legal command ha hp, frameBody, addrHi, addrMask_ushiftRight]
    rfl
  obtain ⟨hlen, -, hlt⟩ := length_encodeFrame _ _ _ _ _ hf
  refine ⟨hlen, storeFrame f s, exec_encode_of_ok hs hf, rfl, ?_, read_storeFrame_txbuf f s⟩
  rw [toNat_storeFrame_txLen s hlt, hlen]

end Sys2Proof.Machine
end

section
/-! PROOF. The transport operations on `TQ` and the line (R37 to R40, U14). -/

namespace Sys2Proof.Machine

variable (s : State)

theorem tAvail_eq_true_iff : tAvail s = true ↔ s.tq ≠ [] := by
  simp [tAvail]

theorem exec_tAvail : exec .tAvail s = .next { s with answer := .available (tAvail s) } := rfl

theorem exec_tRead_of_cons {s : State} {v : Byte} {rest : List Byte} (h : s.tq = v :: rest) :
    exec .tRead s = .next { s with tq := rest, answer := .byte v } := by
  simp only [exec, execTRead, tRead, h]

theorem exec_tRead_of_nil {s : State} (h : s.tq = []) : exec .tRead s = .refused .readOfEmptyQueue := by
  simp only [exec, execTRead, tRead, h]

theorem exec_tWrite (bytes : List Byte) :
    exec (.tWrite bytes) s = .next { s with lineOut := s.lineOut ++ bytes, answer := .nothing } := rfl

theorem exec_tDiscard : exec .tDiscard s = .next { s with tq := [], answer := .nothing } := rfl

/-- Settles O33: the answer is `tAvail`, which reads `TQ` alone, so the first call does not change what the second answers. -/
theorem tAvailAnswersNonEmpty : Obligations.TAvailAnswersNonEmpty := by
  unfold Obligations.TAvailAnswersNonEmpty
  intro s
  refine ⟨tAvail s, tAvail_eq_true_iff s, exec_tAvail s, ?_⟩
  rw [exec_tAvail s, andThen_next, exec_tAvail]
  rfl

/-- Settles O34: one clause for each form of `TQ`. -/
theorem tReadTakesTheHead : Obligations.TReadTakesTheHead := by
  unfold Obligations.TReadTakesTheHead
  exact fun s v rest => ⟨exec_tRead_of_cons, exec_tRead_of_nil⟩

/-- Settles O35: the two operations as `exec` runs them. -/
theorem writeSendsAndDiscardEmpties : Obligations.WriteSendsAndDiscardEmpties := by
  unfold Obligations.WriteSendsAndDiscardEmpties
  exact fun s bytes => ⟨exec_tWrite s bytes, exec_tDiscard s⟩

end Sys2Proof.Machine
end

section
/-! PROOF. The step on the stimulus at the head of the schedule (R34, R43, log 5). -/

namespace Sys2Proof.Machine

theorem step_of_schedule_cons {s : State} {st : Stimulus} {rest : List Stimulus} (h : s.schedule = st :: rest) :
    step s = runInput st.input (takeStimulus st rest s) := by
  simp only [step, h]

theorem runInput_word_of_decode {f : Format} {bytes : List Byte} {i : Instr} (s : State)
    (h : decode f bytes = .ok i) : runInput (.word f bytes) s = andThen (exec i s) resume := by
  simp only [runInput, runWord, h, runInstr]

/-- Settles O51: the step takes the stimulus, whose arrivals go to the tail of `TQ`, and runs what its word decodes to. -/
theorem stepRunsTheDecodedInstruction : Obligations.StepRunsTheDecodedInstruction := by
  unfold Obligations.StepRunsTheDecodedInstruction
  intro s f bytes arrivals rest i hs hd
  rw [step_of_schedule_cons hs, runInput_word_of_decode _ hd]
  rfl

end Sys2Proof.Machine
end

section
/-! PROOF. The address bits of a frame above `AW`: zero on transmit, dropped on receive (R51, R56, R62). -/

namespace Sys2Proof.Machine

/-- `addrHi` keeps at most the bits of its mask, those of an address above bit 7 (R51). -/
theorem toNat_addrHi_lt (aw : AddrWidth) (address : Word) : (addrHi aw address).toNat < 2 ^ (aw.bits - 8) := by
  calc (addrHi aw address).toNat
      ≤ ((address >>> 8) &&& (addrMask aw >>> 8)).toNat := by
        rw [addrHi, BitVec.toNat_setWidth]
        exact Nat.mod_le _ _
    _ ≤ (addrMask aw >>> 8).toNat := by
        rw [BitVec.toNat_and]
        exact Nat.and_le_right
    _ < 2 ^ (aw.bits - 8) := by cases aw <;> decide

theorem getD_one_of_encodeFrame {c : Config} {address : Word} {command : Byte} {payload f : List Byte}
    (h : encodeFrame c address command payload = .ok f) : f.getD 1 0 = addrHi c.aw address := by
  obtain ⟨-, -, rfl⟩ := (encodeFrame_eq_ok _ _ _ _ _).1 h
  rfl

/-- A frame on the wire is received whatever stands in its upper address bits: only the address is masked (R56, R62). -/
theorem decodeFrame_wireFrame (aw : AddrWidth) (raw : Word) (command : Byte) (payload : List Byte) :
    decodeFrame aw (wireFrame raw command payload) =
      .ok { address := maskAddr aw raw, command := command, payload := payload } := by
  rw [decodeFrame, parseFrame_wireFrame]

/-- Settles O11: the second byte of a frame made is `addrHi`, and a wire frame with any raw address decodes to the masked one. -/
theorem upperAddressBitsZeroThenIgnored : Obligations.UpperAddressBitsZeroThenIgnored := by
  unfold Obligations.UpperAddressBitsZeroThenIgnored
  constructor
  · intro c address command payload f hf
    rw [getD_one_of_encodeFrame hf]
    exact toNat_addrHi_lt c.aw address
  · exact decodeFrame_wireFrame

end Sys2Proof.Machine
end

section
/-! PROOF. What the decoder can answer (R55, R59, log 6): one rule per way in which the operand readers are put together, one
lemma per decoder of a port. -/

namespace Sys2Proof

open Machine (parseFrame)

/-- The decoder's result `r` is an error or a well-formed instruction of the format `f`. -/
def AnswersOnly (f : Format) (r : Except DecodeError Instr) : Prop :=
  ∀ i : Instr, r = .ok i → i.wf = true ∧ i.format = f

variable {f : Format}

theorem AnswersOnly.error (e : DecodeError) : AnswersOnly f (.error e) := nofun

theorem AnswersOnly.ok {i : Instr} (hwf : i.wf = true) (hf : i.format = f) : AnswersOnly f (.ok i) := by
  rintro _ ⟨⟩
  exact ⟨hwf, hf⟩

theorem AnswersOnly.finishDecode {i : Instr} {rest : List Byte} (hwf : i.wf = true) (hf : i.format = f) :
    AnswersOnly f (finishDecode i rest) := by
  intro j h
  rw [finishDecode_eq_ok i j rest h]
  exact ⟨hwf, hf⟩

/-- A reader's error is the decoder's; otherwise the decoder goes on from what was read. -/
theorem AnswersOnly.bind {α : Type} {x : Except DecodeError α} {k : α → Except DecodeError Instr}
    (h : ∀ a, x = .ok a → AnswersOnly f (k a)) : AnswersOnly f (x >>= k) := by
  cases x with
  | error e => exact .error e
  | ok a => exact h a rfl

theorem AnswersOnly.ite {p : Prop} [Decidable p] {r r' : Except DecodeError Instr} (h : AnswersOnly f r)
    (h' : AnswersOnly f r') : AnswersOnly f (if p then r else r') := by
  split
  · exact h
  · exact h'

theorem decodeCrc16_answersOnly (bs : List Byte) : AnswersOnly .opsel (decodeCrc16 bs) :=
  .bind fun _ _ => .finishDecode rfl rfl

/-- The payload has the length that the 16-bit operand `plen` gives (R59). -/
theorem decodeEncode_answersOnly (bs : List Byte) : AnswersOnly .opsel (decodeEncode bs) := by
  refine .bind fun _ _ => .bind fun _ _ => .bind fun (plen, bs) _ => .bind fun (payload, rest) hread => ?_
  have hlen : payload.length ≤ 65535 := by
    rw [readBytes_eq_ok _ _ _ _ hread]
    exact Nat.le_of_lt_succ plen.isLt
  exact .finishDecode (decide_eq_true hlen) rfl

theorem decodeRxStart_answersOnly (bs : List Byte) : AnswersOnly .opsel (decodeRxStart bs) :=
  .bind fun _ _ => .finishDecode rfl rfl

theorem decodeReceive_answersOnly (bs : List Byte) : AnswersOnly .pseudo (decodeReceive bs) :=
  .bind fun _ _ => .finishDecode rfl rfl

theorem decodeTWrite_answersOnly (bs : List Byte) : AnswersOnly .transport (decodeTWrite bs) :=
  .bind fun _ _ => .finishDecode rfl rfl

theorem decodeRequest_answersOnly (bs : List Byte) : AnswersOnly .hostPseudo (decodeRequest bs) :=
  .bind fun _ _ => .bind fun _ _ => .bind fun _ _ => .finishDecode rfl rfl

theorem decodeCmdD6_answersOnly (bs : List Byte) : AnswersOnly .commandCode (decodeCmdD6 bs) :=
  .bind fun _ _ => .bind fun _ _ => .finishDecode rfl rfl

theorem decodeOpsel_answersOnly (bs : List Byte) : AnswersOnly .opsel (decodeOpsel bs) := by
  cases bs with
  | nil => exact .error _
  | cons b bs =>
    exact .ite (.finishDecode rfl rfl) <| .ite (decodeCrc16_answersOnly bs) <|
      .ite (decodeEncode_answersOnly bs) (decodeRxStart_answersOnly bs)

theorem decodeTransport_answersOnly (bs : List Byte) : AnswersOnly .transport (decodeTransport bs) := by
  cases bs with
  | nil => exact .error _
  | cons b bs =>
    exact .ite (.finishDecode rfl rfl) <| .ite (.finishDecode rfl rfl) <| .ite (decodeTWrite_answersOnly bs) <|
      .ite (.finishDecode rfl rfl) (.error _)

theorem decodeHostPseudo_answersOnly (bs : List Byte) : AnswersOnly .hostPseudo (decodeHostPseudo bs) := by
  cases bs with
  | nil => exact .error _
  | cons b bs => exact .ite (decodeRequest_answersOnly bs) <| .ite (.finishDecode rfl rfl) (.error _)

/-- `FRAME` is answered only for a frame with a payload: the empty one is `FRAME.MIN` (R55). -/
theorem decodeWire_answersOnly (bs : List Byte) : AnswersOnly .wire (decodeWire bs) := by
  unfold decodeWire
  cases parseFrame bs with
  | error e => exact .error _
  | ok m =>
    obtain ⟨address, command, payload⟩ := m
    cases payload with
    | nil => exact .ok (i := .frameMin address command) rfl rfl
    | cons b payload => exact .ok (i := .frame address command (b :: payload)) rfl rfl

theorem decodeCommandCode_answersOnly (bs : List Byte) : AnswersOnly .commandCode (decodeCommandCode bs) := by
  cases bs with
  | nil => exact .error _
  | cons b bs => exact .ite (decodeCmdD6_answersOnly bs) (.error _)

theorem decode_answersOnly (f : Format) (bs : List Byte) : AnswersOnly f (decode f bs) := by
  cases f with
  | opsel => exact decodeOpsel_answersOnly bs
  | event => exact .finishDecode rfl rfl
  | internal => exact .finishDecode rfl rfl
  | pseudo => exact decodeReceive_answersOnly bs
  | transport => exact decodeTransport_answersOnly bs
  | hostPseudo => exact decodeHostPseudo_answersOnly bs
  | wire => exact decodeWire_answersOnly bs
  | commandCode => exact decodeCommandCode_answersOnly bs

end Sys2Proof

namespace Sys2Proof.Machine

/-- Settles O46: the lemma of the port that the bytes are decoded on. -/
theorem decoderAnswersWellFormed : Obligations.DecoderAnswersWellFormed := by
  unfold Obligations.DecoderAnswersWellFormed
  exact decode_answersOnly

end Sys2Proof.Machine
end

section
/-! PROOF. Words of the request port, the wire and the command byte, written out (R49, R55, R58, R63). -/

namespace Sys2Proof

open Machine (wireFrame parseFrame_wireFrame)

/-- A wire frame without a payload is the row `FRAME.MIN` (R55). -/
theorem decode_wireFrame_nil (raw : Word) (command : Byte) :
    decode .wire (wireFrame raw command []) = .ok (.frameMin raw command) := by
  rw [decode, decodeWire, parseFrame_wireFrame]
  rfl

/-- A wire frame with a payload is the row `FRAME` (R49). -/
theorem decode_wireFrame_cons (raw : Word) (command b : Byte) (payload : List Byte) :
    decode .wire (wireFrame raw command (b :: payload)) = .ok (.frame raw command (b :: payload)) := by
  rw [decode, decodeWire, parseFrame_wireFrame]
  rfl

end Sys2Proof

namespace Sys2Proof.Machine

/-- The bytes of V-DEC-2. -/
theorem wireFrame_vDec2 : wireFrame 0#16 0#8 [] = [0x00#8, 0x00#8, 0x00#8, 0x01#8, 0xB8#8] := by decide +kernel

/-- The bytes of V-DEC-17. -/
theorem wireFrame_vDec17 :
    wireFrame 5#16 0xE2#8 [0xAA#8, 0x55#8] = [0x05#8, 0x00#8, 0xE2#8, 0xAA#8, 0x55#8, 0xD3#8, 0x4B#8] := by
  decide +kernel

/-- Settles O47: the two frames are the wire frames of their fields; the other words are read lane by lane. -/
theorem writtenOutWordsDecode : Obligations.WrittenOutWordsDecode := by
  unfold Obligations.WrittenOutWordsDecode
  rw [← wireFrame_vDec2, ← wireFrame_vDec17]
  exact ⟨rfl, rfl, rfl, rfl, decode_wireFrame_nil _ _, decode_wireFrame_cons _ _ _ _, rfl⟩

end Sys2Proof.Machine
end

section
/-! PROOF. `NONE`, the deadline 0 refused, and a frame on the line (R34, R49, R55, R58, R65). -/

namespace Sys2Proof.Machine

/-- Settles O1: `NONE` answers its own state, with no guard before it (R58). -/
theorem noRequestChangesNothing : Obligations.NoRequestChangesNothing := by
  unfold Obligations.NoRequestChangesNothing
  exact fun _ => rfl

theorem startReceive_zero {s : State} (hs : s.rxState = .idle) : startReceive 0#16 s = .refused .illegalDeadline := by
  rw [startReceive, whenIdle_idle _ _ hs]
  rfl

/-- Settles O17: both operations issue `startReceive`, which refuses the deadline before it arms anything. -/
theorem zeroDeadlineRefused : Obligations.ZeroDeadlineRefused := by
  unfold Obligations.ZeroDeadlineRefused
  refine fun s hs => ⟨startReceive_zero hs, fun hhost => ?_⟩
  rw [exec, execReceive, whenHostFree_idle _ _ hhost, startReceive_zero hs, andThen_refused]

theorem exec_frame (address : Word) (command : Byte) (payload : List Byte) (s : State) :
    exec (.frame address command payload) s = .next { s with tq := s.tq ++ wireFrame address command payload } := rfl

theorem exec_frameMin (address : Word) (command : Byte) (s : State) :
    exec (.frameMin address command) s = .next { s with tq := s.tq ++ wireFrame address command [] } := rfl

/-- Settles O36: the bytes that arrive are `wireFrame`, whose definition is the statement's byte list. -/
theorem frameArrivesAtTheTail : Obligations.FrameArrivesAtTheTail := by
  unfold Obligations.FrameArrivesAtTheTail
  exact fun s address command payload => ⟨exec_frame address command payload s, exec_frameMin address command s⟩

end Sys2Proof.Machine
end

section
/-! PROOF. `crc16` (R67 to R74): a bit iteration keeps the XOR of two accumulators and is injective, and the iterations,
the absorption of a byte and the run over a sequence inherit both. -/

namespace Sys2Proof.Machine

/-! The bit iterations. -/

/-- A bit iteration without the case split: the constant of R70 is masked by the tested bit. -/
theorem crcBit_eq_mask (a : Word) : crcBit a = a >>> 1 ^^^ (if a.getLsbD 0 then Config.crcPoly else 0#16) := by
  unfold crcBit
  split <;> simp

theorem crcBit_xor (a b : Word) : crcBit (a ^^^ b) = crcBit a ^^^ crcBit b := by
  have hmask : ∀ x y : Bool, (if x ^^ y then Config.crcPoly else 0#16) =
      (if x then Config.crcPoly else 0#16) ^^^ (if y then Config.crcPoly else 0#16) := by decide
  rw [crcBit_eq_mask, crcBit_eq_mask, crcBit_eq_mask, BitVec.ushiftRight_xor_distrib, BitVec.getLsbD_xor, hmask]
  ac_rfl

theorem crcBit_of_even {a : Word} (h : a.getLsbD 0 = false) : crcBit a = a >>> 1 := by
  rw [crcBit_eq_mask, h, if_neg Bool.false_ne_true, BitVec.xor_zero]

/-- The top bit of the answer is the bit that was tested: the shift clears it and the constant has it set. -/
theorem getLsbD_crcBit_top (a : Word) : (crcBit a).getLsbD 15 = a.getLsbD 0 := by
  rw [crcBit_eq_mask]
  cases a.getLsbD 0 <;> simp [Config.crcPoly]

/-- The tested bit is read off the top of the answer, which undoes the XOR and leaves the shift. -/
theorem crcBit_injective : Function.Injective crcBit := by
  intro a b h
  have h0 : a.getLsbD 0 = b.getLsbD 0 := by rw [← getLsbD_crcBit_top, h, getLsbD_crcBit_top]
  have hshift : a >>> 1 = b >>> 1 := by
    rw [crcBit_eq_mask, crcBit_eq_mask, h0] at h
    exact (BitVec.xor_left_inj _).mp h
  apply BitVec.eq_of_getLsbD_eq
  intro i hi
  cases i with
  | zero => exact h0
  | succ i => simpa [Nat.add_comm] using congrArg (·.getLsbD i) hshift

theorem crcBits_eq_iterate (n : Nat) : crcBits n = crcBit^[n] := by
  induction n with
  | zero => rfl
  | succ n ih => rw [Function.iterate_succ, ← ih]; rfl

theorem crcBits_xor (n : Nat) (a b : Word) : crcBits n (a ^^^ b) = crcBits n a ^^^ crcBits n b := by
  induction n generalizing a b with
  | zero => rfl
  | succ n ih => simp only [crcBits, crcBit_xor, ih]

theorem crcBits_injective (n : Nat) : Function.Injective (crcBits n) := by
  rw [crcBits_eq_iterate]
  exact crcBit_injective.iterate n

/-- Where the low `n` bits are zero, `n` iterations only shift. -/
theorem crcBits_of_low_zero (n : Nat) (a : Word) (h : ∀ i < n, a.getLsbD i = false) : crcBits n a = a >>> n := by
  induction n generalizing a with
  | zero => simp [crcBits]
  | succ n ih =>
    have hshift : ∀ i < n, (a >>> 1).getLsbD i = false := fun i hi => by
      simpa [Nat.add_comm] using h (i + 1) (by omega)
    rw [crcBits, crcBit_of_even (h 0 n.succ_pos), ih _ hshift, Nat.add_comm n 1, BitVec.shiftRight_add]

/-! The absorption of a byte. -/

theorem crcByte_xor (acc acc' : Word) (b b' : Byte) :
    crcByte (acc ^^^ acc') (b ^^^ b') = crcByte acc b ^^^ crcByte acc' b' := by
  rw [crcByte, crcByte, crcByte, ← crcBits_xor, BitVec.setWidth_xor]
  congr 1
  ac_rfl

theorem crcByte_injective_acc (b : Byte) : Function.Injective (crcByte · b) :=
  (crcBits_injective 8).comp fun _ _ => (BitVec.xor_left_inj _).mp

theorem crcByte_injective_byte (acc : Word) : Function.Injective (crcByte acc) := by
  intro b b' h
  have hw : b.setWidth 16 = b'.setWidth 16 := (BitVec.xor_right_inj _).mp (crcBits_injective 8 h)
  simpa using congrArg (BitVec.setWidth 8) hw

/-- Absorbing the low byte of the accumulator clears it, so the eight iterations shift it out. -/
theorem crcByte_loByte (acc : Word) : crcByte acc (loByte acc) = acc >>> 8 := by
  have hlow : ∀ i < 8, (acc ^^^ (loByte acc).setWidth 16).getLsbD i = false := fun i hi => by
    simp [loByte, hi, show i < 16 by omega]
  rw [crcByte, crcBits_of_low_zero 8 _ hlow, BitVec.ushiftRight_xor_distrib]
  have hhigh : (loByte acc).setWidth 16 >>> 8 = 0#16 := by
    apply BitVec.eq_of_getLsbD_eq
    intro i hi
    simp
  rw [hhigh, BitVec.xor_zero]

/-- Absorbing the high byte, once the low one is out, clears the whole accumulator. -/
theorem crcByte_hiByte (acc : Word) : crcByte (acc >>> 8) (hiByte acc) = 0#16 := by
  have hw : (hiByte acc).setWidth 16 = acc >>> 8 := by
    apply BitVec.eq_of_toNat_eq
    simp only [hiByte, BitVec.toNat_setWidth, BitVec.toNat_ushiftRight, Nat.shiftRight_eq_div_pow]
    omega
  rw [crcByte, hw, BitVec.xor_self]
  rfl

/-! Sequences of bytes. -/

theorem crcFrom_xor {a b : List Byte} (h : a.length = b.length) (acc acc' : Word) :
    crcFrom (acc ^^^ acc') (List.zipWith (· ^^^ ·) a b) = crcFrom acc a ^^^ crcFrom acc' b := by
  induction a generalizing b acc acc' with
  | nil => cases b with
    | nil => rfl
    | cons y b => cases h
  | cons x a ih => cases b with
    | nil => cases h
    | cons y b =>
      rw [List.zipWith_cons_cons, crcFrom, crcByte_xor, ih (Nat.succ.inj h)]
      rfl

/-- The seed cancels: the XOR of two checksums is the run from 0 over the bytewise XOR (R74). -/
theorem crc16_xor {a b : List Byte} (h : a.length = b.length) :
    crc16 a ^^^ crc16 b = crcFrom 0#16 (List.zipWith (· ^^^ ·) a b) := by
  rw [crc16, crc16, ← crcFrom_xor h, BitVec.xor_self]

theorem crcFrom_injective (bytes : List Byte) : Function.Injective (crcFrom · bytes) := by
  induction bytes with
  | nil => exact Function.injective_id
  | cons b bytes ih => exact ih.comp (crcByte_injective_acc b)

theorem crc16_concat (bytes : List Byte) (b : Byte) : crc16 (bytes ++ [b]) = crcByte (crc16 bytes) b :=
  crc16_append bytes [b]

/-- Both runs meet with the same accumulator before the byte and go on over the same bytes after it. -/
theorem crc16_eq_of_one_byte {pre post : List Byte} {b b' : Byte}
    (h : crc16 (pre ++ b :: post) = crc16 (pre ++ b' :: post)) : b = b' := by
  rw [crc16_append, crc16_append] at h
  exact crcByte_injective_byte _ (crcFrom_injective post h)

/-! The statements. -/

/-- Settles O2: a `shift` with the equation of R70 is `crcBit`, and one more byte is one more `crcByte`. -/
theorem crc16FollowsTheAlgorithm : Obligations.Crc16FollowsTheAlgorithm := by
  unfold Obligations.Crc16FollowsTheAlgorithm
  intro shift hshift
  obtain rfl : shift = crcBit := funext hshift
  refine ⟨rfl, fun bytes b => ?_⟩
  rw [crc16_concat, crcByte, crcBits_eq_iterate]

/-- Settles O4: the two bytes shift the accumulator out, the low byte first (`crcByte_loByte`, `crcByte_hiByte`). -/
theorem crcResidueIsZero : Obligations.CrcResidueIsZero := by
  unfold Obligations.CrcResidueIsZero
  intro m
  calc crc16 (m ++ [loByte (crc16 m), hiByte (crc16 m)])
      = crcByte (crcByte (crc16 m) (loByte (crc16 m))) (hiByte (crc16 m)) := crc16_append m _
    _ = 0#16 := by rw [crcByte_loByte, crcByte_hiByte]

/-- Settles O5: the XOR of the checksums is a function of the bytewise XOR (`crc16_xor`). -/
theorem crcDifferenceDependsOnByteDifference : Obligations.CrcDifferenceDependsOnByteDifference := by
  unfold Obligations.CrcDifferenceDependsOnByteDifference
  intro a b a' b' hab hab' h
  rw [crc16_xor hab, crc16_xor hab', h]

/-- Settles O6: the sequences differ in the byte at `k` alone, and `crc16_eq_of_one_byte` tells two such bytes apart. -/
theorem oneChangedByteChangesTheCrc : Obligations.OneChangedByteChangesTheCrc := by
  unfold Obligations.OneChangedByteChangesTheCrc
  intro bytes k v hk hne heq
  have hset : bytes.set k v = bytes.take k ++ v :: bytes.drop (k + 1) := by
    rw [List.set_eq_take_append_cons_drop, if_pos hk]
  have hsplit : bytes.take k ++ bytes[k] :: bytes.drop (k + 1) = bytes := by simp
  exact hne (crc16_eq_of_one_byte (by rw [hsplit, ← hset, heq]))

theorem exec_crc16 (bytes : List Byte) {s : State} (hs : s.rxState = .idle) :
    exec (.crc16 bytes) s = .next
      { s with answer := .crc (crc16 bytes), respOutcome := doneOutcome s.freeCount, freeCount := s.freeCount + 1 } := by
  rw [exec, execCrc16, whenIdle_idle _ _ hs]

/-- Settles O3: in `IDLE` the request is answered, with one of the two codes of `doneOutcome`. -/
theorem crc16AnswersAndWritesNothing : Obligations.Crc16AnswersAndWritesNothing := by
  unfold Obligations.Crc16AnswersAndWritesNothing
  intro bytes s hs
  exact ⟨_, exec_crc16 bytes hs, rfl, doneOutcome_cases s.freeCount⟩

end Sys2Proof.Machine
end

section
/-! PROOF. The pure codec (R83 to R90): the decoder's checks in order, the round trip of a frame, and one changed byte,
which leaves a CRC residue (R73) that is not zero. -/

namespace Sys2Proof.Machine

/-! The decoder, one equation per branch. -/

section
variable (aw : AddrWidth) {b : List Byte}

theorem decodeFrame_of_short (h : b.length < Config.minFrame) : decodeFrame aw b = .error .frameTooShort := by
  rw [decodeFrame, parseFrame, if_pos h]

theorem decodeFrame_of_crc_ne (hlen : Config.minFrame ≤ b.length)
    (hcrc : crc16 (b.take (b.length - 2)) ≠ joinLE (b.getD (b.length - 2) 0) (b.getD (b.length - 1) 0)) :
    decodeFrame aw b = .error .checksumMismatch := by
  rw [decodeFrame, parseFrame, if_neg (Nat.not_lt.mpr hlen), if_neg hcrc]

theorem decodeFrame_of_crc_eq (hlen : Config.minFrame ≤ b.length)
    (hcrc : crc16 (b.take (b.length - 2)) = joinLE (b.getD (b.length - 2) 0) (b.getD (b.length - 1) 0)) :
    decodeFrame aw b = .ok
      { address := maskAddr aw (joinLE (b.getD 0 0) (b.getD 1 0))
        command := b.getD 2 0
        payload := (b.take (b.length - 2)).drop 3 } := by
  rw [decodeFrame, parseFrame, if_neg (Nat.not_lt.mpr hlen), if_pos hcrc]

end

/-- Settles O10: one clause for each branch of the decoder, with `joinLE` as bit concatenation. -/
theorem decodeChecksThenExtracts : Obligations.DecodeChecksThenExtracts := by
  unfold Obligations.DecodeChecksThenExtracts
  intro aw b
  simp only [← joinLE_eq_append]
  exact ⟨decodeFrame_of_short aw, decodeFrame_of_crc_ne aw, decodeFrame_of_crc_eq aw⟩

/-! The residue as the CRC check. -/

theorem take_append_last_two {b : List Byte} (h : 2 ≤ b.length) :
    b.take (b.length - 2) ++ [b.getD (b.length - 2) 0, b.getD (b.length - 1) 0] = b := by
  obtain ⟨n, hn⟩ := Nat.exists_eq_add_of_le' h
  have hdrop : b.drop n = [b.getD n 0, b.getD (n + 1) 0] := by
    rw [List.drop_eq_getElem_cons (by omega), List.drop_eq_getElem_cons (by omega), List.drop_eq_nil_of_le (by omega),
      List.getD_eq_getElem b 0 (by omega), List.getD_eq_getElem b 0 (by omega)]
  rw [hn, Nat.add_sub_cancel, Nat.add_succ_sub_one, ← hdrop, List.take_append_drop]

/-- What passes the CRC check is a body followed by its CRC. -/
theorem withCrc_of_crc_eq {b : List Byte} (hlen : 2 ≤ b.length)
    (hcrc : crc16 (b.take (b.length - 2)) = joinLE (b.getD (b.length - 2) 0) (b.getD (b.length - 1) 0)) :
    withCrc (b.take (b.length - 2)) = b := by
  rw [withCrc, hcrc, loByte_joinLE, hiByte_joinLE, take_append_last_two hlen]

theorem crc16_withCrc (body : List Byte) : crc16 (withCrc body) = 0#16 := crcResidueIsZero body

theorem decodeFrame_of_residue_ne_zero (aw : AddrWidth) {b : List Byte} (hlen : 5 ≤ b.length) (h : crc16 b ≠ 0#16) :
    decodeFrame aw b = .error .checksumMismatch := by
  refine decodeFrame_of_crc_ne aw hlen fun hcrc => h ?_
  rw [← withCrc_of_crc_eq (by omega) hcrc, crc16_withCrc]

/-! A frame made. -/

theorem encodeFrame_eq_wireFrame {c : Config} {address : Word} (command : Byte) {payload : List Byte}
    (ha : address.toNat ≤ c.aw.addrMax) (hp : payload.length < c.maxPayload) :
    encodeFrame c address command payload = .ok (wireFrame address command payload) := by
  rw [encodeFrame_of_legal command ha hp, withCrc_frameBody c.aw address command payload (decide_eq_true ha)]

theorem decodeFrame_wireFrame_of_legal {aw : AddrWidth} {address : Word} (command : Byte) (payload : List Byte)
    (ha : address.toNat ≤ aw.addrMax) :
    decodeFrame aw (wireFrame address command payload) = .ok { address, command, payload } := by
  rw [decodeFrame_wireFrame, maskAddr_of_inRange aw address (decide_eq_true ha)]

/-- The residue of the frame is zero, so that of a sequence with one byte changed is not (R74). -/
theorem decodeFrame_set_wireFrame (aw : AddrWidth) (raw : Word) (command : Byte) (payload : List Byte) {k : Nat}
    {v : Byte} (hk : k < (wireFrame raw command payload).length) (hv : (wireFrame raw command payload)[k] ≠ v) :
    decodeFrame aw ((wireFrame raw command payload).set k v) = .error .checksumMismatch := by
  refine decodeFrame_of_residue_ne_zero aw (by simp) fun h => ?_
  apply oneChangedByteChangesTheCrc _ k v hk hv
  rw [h, wireFrame, crc16_withCrc]

theorem wireFrame_ne_of_raw_ne {raw raw' : Word} (h : raw ≠ raw') (command : Byte) (payload : List Byte) :
    wireFrame raw command payload ≠ wireFrame raw' command payload := by
  intro he
  have hparse := congrArg parseFrame he
  rw [parseFrame_wireFrame, parseFrame_wireFrame] at hparse
  injection hparse with hm
  exact h (congrArg Message.address hm)

/-- An address bit above `AW` is dropped on receive and is not made again on transmit (R62). -/
theorem exists_decode_then_encode_ne : ∃ (c : Config) (b f : List Byte) (m : Message), decodeFrame c.aw b = .ok m ∧
    encodeFrame c m.address m.command m.payload = .ok f ∧ f ≠ b :=
  ⟨Config.standard, wireFrame 0x8000#16 0#8 [], wireFrame 0#16 0#8 [], ⟨0#16, 0#8, []⟩,
    decodeFrame_wireFrame _ _ _ _, encodeFrame_eq_wireFrame _ (by decide) (by decide),
    wireFrame_ne_of_raw_ne (by decide) _ _⟩

/-- The frames of two addresses have one length and differ in the address bytes and the CRC. -/
theorem exists_other_frame_of_same_length : ∃ (c : Config) (f b : List Byte) (m : Message),
    encodeFrame c 0#16 0#8 [] = .ok f ∧ b.length = f.length ∧ b ≠ f ∧ decodeFrame c.aw b = .ok m :=
  ⟨Config.standard, wireFrame 0#16 0#8 [], wireFrame 1#16 0#8 [], ⟨1#16, 0#8, []⟩,
    encodeFrame_eq_wireFrame _ (by decide) (by decide), rfl, wireFrame_ne_of_raw_ne (by decide) _ _,
    decodeFrame_wireFrame _ _ _ _⟩

/-- Settles O12: a legal frame is the wire frame of its address, which decodes to its fields and, with a byte changed, to
the error; the two existence clauses are frames of other raw addresses. -/
theorem frameRoundTripAndCorruption : Obligations.FrameRoundTripAndCorruption := by
  unfold Obligations.FrameRoundTripAndCorruption
  refine ⟨fun c address command payload ha hp => ?_, exists_decode_then_encode_ne, exists_other_frame_of_same_length⟩
  exact ⟨wireFrame address command payload, encodeFrame_eq_wireFrame command ha hp,
    decodeFrame_wireFrame_of_legal command payload ha,
    fun _ _ => decodeFrame_set_wireFrame c.aw address command payload⟩

end Sys2Proof.Machine
end

section
/-! PROOF. `ENCODE` and `DECODE` bound to the state (R75 to R78, R81, R89): the error branches of `ENCODE` in the order of
D16, and `DECODE` on the defined bytes of `RXBUF`. -/

namespace Sys2Proof.Machine

/-! `ENCODE` on illegal operands. -/

theorem encodeFrame_of_high_address {c : Config} {address : Word} (command : Byte) (payload : List Byte)
    (ha : c.aw.addrMax < address.toNat) : encodeFrame c address command payload = .error .addressOutOfRange := by
  rw [encodeFrame, if_neg (by simpa [addressInRange] using ha)]

theorem encodeFrame_of_long_payload {c : Config} {address : Word} (command : Byte) {payload : List Byte}
    (ha : address.toNat ≤ c.aw.addrMax) (hp : c.maxPayload ≤ payload.length) :
    encodeFrame c address command payload = .error .payloadTooLarge := by
  rw [encodeFrame, if_pos (by simpa [addressInRange] using ha), if_neg (by simpa [payloadInRange] using hp)]

theorem exec_encode_of_error {s : State} {address : Word} {command : Byte} {payload : List Byte} {e : Status}
    (hs : s.rxState = .idle) (he : encodeFrame s.cfg address command payload = .error e) :
    exec (.encode address command payload) s = .next (raiseError .codec e s) := by
  simp only [exec, execEncode, whenIdle_idle _ _ hs, encodeInto, he]

/-- Settles O9: the three branches of `encodeFrame`, each bound to the state. -/
theorem encodeRejectsInOrder : Obligations.EncodeRejectsInOrder := by
  unfold Obligations.EncodeRejectsInOrder
  intro s address command payload hs
  refine ⟨fun ha => ?_, fun ha hp => ?_, fun ha hp => ?_⟩
  · exact exec_encode_of_error hs (encodeFrame_of_high_address command payload ha)
  · exact exec_encode_of_error hs (encodeFrame_of_long_payload command ha hp)
  · have hf := encodeFrame_of_legal command ha hp
    exact ⟨_, _, exec_encode_of_ok hs hf, hf, rfl, rfl⟩

/-- Settles O8: each branch records its own outcome, and the premises of a clause leave two of the three branches. -/
theorem encodeFailsExactlyOnIllegalOperands : Obligations.EncodeFailsExactlyOnIllegalOperands := by
  unfold Obligations.EncodeFailsExactlyOnIllegalOperands
  intro s address command payload hs
  rcases Nat.lt_or_ge s.cfg.aw.addrMax address.toNat with ha | ha
  · exact ⟨_, exec_encode_of_error hs (encodeFrame_of_high_address command payload ha),
      fun _ => iff_of_true rfl ha, fun ha' => absurd ha (Nat.not_lt.2 ha')⟩
  rcases Nat.lt_or_ge payload.length s.cfg.maxPayload with hp | hp
  · exact ⟨_, exec_encode_of_ok hs (encodeFrame_of_legal command ha hp),
      fun _ => iff_of_false nofun (Nat.not_lt.2 ha), fun _ => iff_of_false nofun (Nat.not_le.2 hp)⟩
  · exact ⟨_, exec_encode_of_error hs (encodeFrame_of_long_payload command ha hp),
      fun hp' => absurd hp' (Nat.not_lt.2 hp), fun _ => iff_of_true rfl hp⟩

/-! `DECODE`. -/

theorem exec_decode_of_ok {s : State} {m : Message} (hr : s.rxbuf.map Prod.fst = List.range s.rxI.toNat)
    (hm : decodeFrame s.cfg.aw (s.rxbuf.map Prod.snd) = .ok m) :
    exec .decode s = .next { bindMessage m s with answer := .message m } := by
  simp only [exec, execDecode, decodeBuffer_of_prefix s hr, hm]

theorem exec_decode_of_error {s : State} {e : Status} (hr : s.rxbuf.map Prod.fst = List.range s.rxI.toNat)
    (he : decodeFrame s.cfg.aw (s.rxbuf.map Prod.snd) = .error e) :
    exec .decode s = .next { freeDec s with answer := .raised (.status e) } := by
  simp only [exec, execDecode, decodeBuffer_of_prefix s hr, he]

/-- Settles O13: under the invariant the bytes decoded are those defined in `RXBUF`; one case for each answer to them. -/
theorem decodeBindsRegisters : Obligations.DecodeBindsRegisters := by
  unfold Obligations.DecodeBindsRegisters
  intro s h
  have hread := Memory.readRange_of_prefix _ _ h.rxbuf_prefix
  have hlen := ((Memory.readRange_eq_ok _ _ _ _).1 hread).1
  cases hm : decodeFrame s.cfg.aw (s.rxbuf.map Prod.snd) with
  | ok m =>
    refine ⟨_, _, exec_decode_of_ok h.rxbuf_prefix hm, hread, hlen, fun m' hm' => ?_, fun e he => ?_⟩
    · obtain rfl : m = m' := Except.ok.inj (hm.symm.trans hm')
      rfl
    · cases hm.symm.trans he
  | error e =>
    refine ⟨_, _, exec_decode_of_error h.rxbuf_prefix hm, hread, hlen, fun m hm' => ?_, fun e' he => ?_⟩
    · cases hm.symm.trans hm'
    · obtain rfl : e = e' := Except.error.inj (hm.symm.trans he)
      rfl

end Sys2Proof.Machine
end

section
/-! PROOF. One running tick (R94 to R104): what steps 1 to 3 leave in the counters, and what step 4 can do to them. -/

namespace Sys2Proof.Machine

variable {s t u : State}

/-! Steps 1 to 3. -/

theorem sub_one_ne_zero_of_two_le {v : Word} (h : 2 ≤ v.toNat) : v - 1#16 ≠ 0#16 := by
  have hv : v ≠ 0#16 := (one_le_toNat_iff v).1 (by omega)
  refine (one_le_toNat_iff _).1 ?_
  rw [toNat_sub_one v hv]
  omega

theorem countAfterPoll_of_nil (h : s.tq = []) : s.countAfterPoll = s.rxI := by
  simp [State.countAfterPoll, h]

theorem countAfterPoll_of_empty_buffer (hI : s.rxI = 0#16) (h : s.tq ≠ []) : s.countAfterPoll = 1#16 := by
  have hcap : 0 < s.cfg.rxCap := Nat.lt_of_lt_of_le (by decide) s.cfg.rxCap_ge
  simp [State.countAfterPoll, h, hI, hcap]

theorem budgetAfterPoll_of_nil (h : s.tq = []) : s.budgetAfterPoll = s.rxIb := if_pos h

theorem budgetAfterPoll_of_ne_nil (h : s.tq ≠ []) : s.budgetAfterPoll = s.cfg.ibWindow := if_neg h

theorem read_bufferAfterPoll_same {v : Byte} {rest : List Byte} (h : s.tq = v :: rest)
    (hc : s.rxI.toNat < s.cfg.rxCap) : Memory.read s.bufferAfterPoll s.rxI.toNat = some v := by
  simp [State.bufferAfterPoll, h, hc]

/-- With a byte accumulated the (reloaded) inter-byte budget is counted down (R99). -/
theorem afterCountdowns_rxIb_of_byte (h : 1 ≤ s.rxI.toNat ∨ s.tq ≠ []) :
    s.afterCountdowns.rxIb = s.budgetAfterPoll - 1#16 :=
  if_neg (countAfterPoll_ne_zero s h)

/-- With no byte accumulated none was available either, so the budget does not move (R99). -/
theorem afterCountdowns_rxIb_of_zero (h : s.countAfterPoll = 0#16) : s.afterCountdowns.rxIb = s.rxIb := by
  have htq : s.tq = [] := by_contra fun hne => countAfterPoll_ne_zero s (.inr hne) h
  rw [afterCountdowns_rxIb, if_pos h, budgetAfterPoll_of_nil htq]

theorem toNat_afterCountdowns_rxIb_of_byte (h : s.FramerInv) (hs : s.rxState = .run)
    (hbyte : 1 ≤ s.rxI.toNat ∨ s.tq ≠ []) : s.afterCountdowns.rxIb.toNat = s.budgetAfterPoll.toNat - 1 := by
  have hpos := (budgetAfterPoll_bounds h hs).1
  rw [afterCountdowns_rxIb_of_byte hbyte, toNat_sub_one _ ((one_le_toNat_iff _).1 hpos)]

/-- The inter-byte budget of a running receive is only counted down once a byte is there (R16, R99). -/
theorem one_le_rxI_of_silence (h : s.FramerInv) (hs : s.rxState = .run)
    (hib : s.afterCountdowns.rxIb = 0#16) : 1 ≤ s.afterCountdowns.rxI.toNat := by
  refine (one_le_toNat_iff _).2 fun hz => ?_
  rw [afterCountdowns_rxIb_of_zero hz] at hib
  exact (one_le_toNat_iff _).1 (h.run_budget hs).1 hib

/-- The deadline counts down and saturates at zero (R100). -/
theorem toNat_afterCountdowns_rxDl (s : State) : s.afterCountdowns.rxDl.toNat = s.rxDl.toNat - 1 := by
  rw [afterCountdowns_rxDl]
  split
  · next hz => rw [hz]; rfl
  · next hz => exact toNat_sub_one _ hz

theorem afterCountdowns_of_full {v : Byte} {rest : List Byte} (htq : s.tq = v :: rest)
    (hfull : s.rxI.toNat = s.cfg.rxCap) :
    s.afterCountdowns = { s with tq := rest, rxOvf := true, rxIb := s.cfg.ibWindow - 1#16,
                                 rxDl := if s.rxDl = 0#16 then 0#16 else s.rxDl - 1#16 } := by
  have hcount : s.countAfterPoll = s.rxI := by simp [State.countAfterPoll, hfull]
  have hne : s.rxI ≠ 0#16 := hcount ▸ countAfterPoll_ne_zero s (.inr (by simp [htq]))
  simp [State.afterCountdowns, State.budgetAfterPoll, State.bufferAfterPoll, hcount, hne, htq, hfull]

/-! Step 4. -/

/-- `t` is `u` but for what step 4 writes: `RX_STATE`, `RX_OUTCOME` and `DEC_*` with their free values (R101 to
R104, log 3). -/
def OutcomeOnly (u t : State) : Prop :=
  t = { u with rxState := t.rxState, rxOutcome := t.rxOutcome, decAddr := t.decAddr, decCmd := t.decCmd,
               decPlen := t.decPlen, freeCount := t.freeCount }

theorem OutcomeOnly.cfg (h : OutcomeOnly u t) : t.cfg = u.cfg := (congrArg State.cfg h :)
theorem OutcomeOnly.rxI (h : OutcomeOnly u t) : t.rxI = u.rxI := (congrArg State.rxI h :)
theorem OutcomeOnly.rxIb (h : OutcomeOnly u t) : t.rxIb = u.rxIb := (congrArg State.rxIb h :)
theorem OutcomeOnly.rxDl (h : OutcomeOnly u t) : t.rxDl = u.rxDl := (congrArg State.rxDl h :)
theorem OutcomeOnly.tq (h : OutcomeOnly u t) : t.tq = u.tq := (congrArg State.tq h :)

theorem endBySilence_outcomeOnly (u : State) : Ends True (OutcomeOnly u) (endBySilence u) := by
  unfold endBySilence
  split
  · rfl
  · split
    · trivial
    · rfl
    · rfl

theorem tickTerminate_outcomeOnly (u : State) : Ends True (OutcomeOnly u) (tickTerminate u) := by
  obtain ⟨-, he⟩ | ⟨-, -, -, he⟩ | ⟨-, -, he⟩ := tickTerminate_cases u <;> rw [he]
  · exact endBySilence_outcomeOnly u
  · rfl
  · rfl

/-- Silence ends the receive, and never with `Timeout`. -/
theorem endBySilence_idle (h : u.rxbuf.map Prod.fst = List.range u.rxI.toNat) :
    ∃ t, endBySilence u = .next t ∧ t.rxState = .idle ∧ t.rxOutcome ≠ .timeout := by
  obtain ⟨-, he⟩ | ⟨-, m, -, he⟩ | ⟨-, e, hm, he⟩ := endBySilence_cases u h
  · exact ⟨_, he, rfl, nofun⟩
  · exact ⟨_, he, rfl, nofun⟩
  · refine ⟨_, he, rfl, ?_⟩
    obtain ⟨-, rfl⟩ | ⟨-, rfl⟩ := decodeFrame_eq_error _ _ _ hm <;> exact nofun

theorem exec_rxTick_of_run (hs : s.rxState = .run) : exec .rxTick s = tickTerminate s.afterCountdowns :=
  execRxTick_run s hs

/-- A tick after which neither test holds is the countdowns alone. -/
theorem exec_rxTick_goes_on (hs : s.rxState = .run) (hib : s.afterCountdowns.rxIb ≠ 0#16)
    (hempty : ¬ (s.afterCountdowns.rxDl = 0#16 ∧ s.afterCountdowns.rxI = 0#16)) :
    exec .rxTick s = .next s.afterCountdowns := by
  rw [exec_rxTick_of_run hs]
  obtain ⟨hz, -⟩ | ⟨-, hdl, hI, -⟩ | ⟨-, -, he⟩ := tickTerminate_cases s.afterCountdowns
  · exact absurd hz hib
  · exact absurd ⟨hdl, hI⟩ hempty
  · exact he

/-- A tick after which the silence test holds is the countdowns and the termination by silence. -/
theorem exec_rxTick_silence (hs : s.rxState = .run) (hib : s.afterCountdowns.rxIb = 0#16) :
    exec .rxTick s = endBySilence s.afterCountdowns := by
  rw [exec_rxTick_of_run hs, tickTerminate, silenceHolds, if_pos (by simp [hib])]

/-- A tick after which only the Empty test holds is the countdowns and `Timeout` (R102). -/
theorem exec_rxTick_timeout (hs : s.rxState = .run) (hib : s.afterCountdowns.rxIb ≠ 0#16)
    (hdl : s.afterCountdowns.rxDl = 0#16) (hI : s.afterCountdowns.rxI = 0#16) :
    exec .rxTick s = .next (raiseError .framer .timeout s.afterCountdowns) := by
  rw [exec_rxTick_of_run hs]
  obtain ⟨hz, -⟩ | ⟨-, -, -, he⟩ | ⟨-, hempty, -⟩ := tickTerminate_cases s.afterCountdowns
  · exact absurd hz hib
  · exact he
  · exact absurd ⟨hdl, hI⟩ hempty

/-- What a tick from the running state `s` leaves in `t`, under the invariant. -/
structure TickedTo (s t : State) : Prop where
  frame : OutcomeOnly s.afterCountdowns t
  inv : t.FramerInv
  run_iff : t.rxState = .run ↔
    s.afterCountdowns.rxIb ≠ 0#16 ∧ ¬ (s.afterCountdowns.rxDl = 0#16 ∧ s.afterCountdowns.rxI = 0#16)
  timeout_iff : t.rxOutcome = .timeout ↔
    s.afterCountdowns.rxIb ≠ 0#16 ∧ s.afterCountdowns.rxDl = 0#16 ∧ s.afterCountdowns.rxI = 0#16

/-- A running tick answers a next state, whichever test ends it. -/
theorem exec_rxTick_tickedTo (h : s.FramerInv) (hs : s.rxState = .run) :
    ∃ t, exec .rxTick s = .next t ∧ TickedTo s t := by
  have hframe := tickTerminate_outcomeOnly s.afterCountdowns
  rw [← exec_rxTick_of_run hs] at hframe
  have hinv : Ends False State.FramerInv (exec .rxTick s) := execRxTick_framerInv h
  by_cases hib : s.afterCountdowns.rxIb = 0#16
  · obtain ⟨t, he, hidle, hout⟩ := endBySilence_idle (afterCountdowns_bufferInv h.toBufferInv).rxbuf_prefix
    rw [← exec_rxTick_silence hs hib] at he
    exact ⟨t, he, hframe.of_eq_next he, hinv.of_eq_next he, by simp [hidle, hib], by simp [hout, hib]⟩
  by_cases hempty : s.afterCountdowns.rxDl = 0#16 ∧ s.afterCountdowns.rxI = 0#16
  · have he := exec_rxTick_timeout hs hib hempty.1 hempty.2
    exact ⟨_, he, hframe.of_eq_next he, hinv.of_eq_next he,
      iff_of_false nofun fun hruns => hruns.2 hempty, iff_of_true rfl ⟨hib, hempty⟩⟩
  · have he := exec_rxTick_goes_on hs hib hempty
    have hout : s.afterCountdowns.rxOutcome ≠ .timeout := by simp [h.run_outcome hs]
    exact ⟨_, he, hframe.of_eq_next he, hinv.of_eq_next he, iff_of_true hs ⟨hib, hempty⟩,
      iff_of_false hout fun hall => hempty hall.2⟩

theorem TickedTo.rxI (h : TickedTo s t) : t.rxI = s.countAfterPoll := h.frame.rxI

theorem TickedTo.tq (h : TickedTo s t) : t.tq = s.tq.tail := h.frame.tq

theorem TickedTo.cfg (h : TickedTo s t) : t.cfg = s.cfg := h.frame.cfg

/-- With a byte accumulated or available, the Empty test cannot hold (R103). -/
theorem TickedTo.run_iff_of_byte (h : TickedTo s t) (hbyte : 1 ≤ s.rxI.toNat ∨ s.tq ≠ []) :
    t.rxState = .run ↔ s.afterCountdowns.rxIb ≠ 0#16 := by
  rw [h.run_iff]
  exact and_iff_left fun hempty => countAfterPoll_ne_zero s hbyte hempty.2

theorem TickedTo.no_timeout_of_byte (h : TickedTo s t) (hbyte : 1 ≤ s.rxI.toNat ∨ s.tq ≠ []) :
    t.rxOutcome ≠ .timeout :=
  fun hout => countAfterPoll_ne_zero s hbyte (h.timeout_iff.1 hout).2.2

theorem TickedTo.one_le_rxI_of_byte (h : TickedTo s t) (hbyte : 1 ≤ s.rxI.toNat ∨ s.tq ≠ []) : 1 ≤ t.rxI.toNat := by
  rw [h.rxI]
  exact (one_le_toNat_iff _).2 (countAfterPoll_ne_zero s hbyte)

/-- With a byte accumulated a receive runs exactly while its inter-byte budget lasts (R101, R103). -/
theorem TickedTo.run_iff_budget_of_byte (h : TickedTo s t) (hbyte : 1 ≤ s.rxI.toNat ∨ s.tq ≠ []) :
    t.rxState = .run ↔ 0 < t.rxIb.toNat := by
  rw [h.run_iff_of_byte hbyte, ← h.frame.rxIb]
  exact (one_le_toNat_iff _).symm

/-- A byte in `TQ` keeps the receive running where the window is more than the tick itself (R101, R111). -/
theorem TickedTo.run_of_available (h : TickedTo s t) (htq : s.tq ≠ []) (hw : 2 ≤ s.cfg.ibWindow.toNat) :
    t.rxState = .run := by
  rw [h.run_iff_of_byte (.inr htq), afterCountdowns_rxIb_of_byte (.inr htq), budgetAfterPoll_of_ne_nil htq]
  exact sub_one_ne_zero_of_two_le hw

theorem rxState_idle_iff : s.rxState = .idle ↔ s.rxState ≠ .run := by
  cases s.rxState <;> decide

end Sys2Proof.Machine
end

section
/-! PROOF. The statements about one tick (R96 to R104, R106, R109). -/

namespace Sys2Proof.Machine

/-- Settles O18: `RX_TICK` reads `RX_STATE` first (R106). -/
theorem idleTickChangesNothing : Obligations.IdleTickChangesNothing := by
  unfold Obligations.IdleTickChangesNothing
  exact execRxTick_idle

/-- Settles O19: the countdowns alone, whose only store is at `RX_I`. -/
theorem tickCountsDown : Obligations.TickCountsDown := by
  unfold Obligations.TickCountsDown
  exact fun s hs hib hempty =>
    ⟨exec_rxTick_goes_on hs hib hempty, read_bufferAfterPoll_ne s, fun _ _ => read_bufferAfterPoll_same⟩

/-- Settles O20: step 4 leaves the three counters as steps 1 to 3 left them. -/
theorem everyTickMovesTheBudgets : Obligations.EveryTickMovesTheBudgets := by
  unfold Obligations.EveryTickMovesTheBudgets
  intro s h hs
  obtain ⟨t, he, ht⟩ := exec_rxTick_tickedTo h.regs.framer hs
  refine ⟨t, he, fun hz => ?_, fun hpos => ?_, ?_⟩
  · rw [ht.rxI] at hz
    rw [ht.frame.rxIb, afterCountdowns_rxIb_of_zero hz]
  · rw [ht.rxI] at hpos
    rw [ht.frame.rxIb, afterCountdowns_rxIb, if_neg ((one_le_toNat_iff _).1 hpos), State.budgetAfterPoll]
  · rw [ht.frame.rxDl, toNat_afterCountdowns_rxDl]

/-- Settles O21: the window of at least 2 keeps the silence test from holding, the full buffer the Empty test. -/
theorem fullBufferDropsTheByte : Obligations.FullBufferDropsTheByte := by
  unfold Obligations.FullBufferDropsTheByte
  intro s v rest hs htq hfull hw
  have hne : s.tq ≠ [] := by simp [htq]
  have hib : s.afterCountdowns.rxIb ≠ 0#16 := by
    rw [afterCountdowns_rxIb_of_byte (.inr hne), budgetAfterPoll_of_ne_nil hne]
    exact sub_one_ne_zero_of_two_le hw
  have hempty := fun hall : s.afterCountdowns.rxDl = 0#16 ∧ s.afterCountdowns.rxI = 0#16 =>
    countAfterPoll_ne_zero s (.inr hne) hall.2
  rw [exec_rxTick_goes_on hs hib hempty, afterCountdowns_of_full htq hfull]

/-- Settles O22: the overrun, the decoder's message and the decoder's error, each bound to the counted registers. -/
theorem silenceEndsTheReceive : Obligations.SilenceEndsTheReceive := by
  unfold Obligations.SilenceEndsTheReceive
  intro s h hs hib
  refine ⟨one_le_rxI_of_silence h.regs.framer hs hib, ?_⟩
  have hdefined := (afterCountdowns_bufferInv h.regs.framer.toBufferInv).rxbuf_prefix
  have hread := Memory.readRange_of_prefix _ _ hdefined
  have hlen := ((Memory.readRange_eq_ok _ _ _ _).1 hread).1
  rw [exec_rxTick_silence hs hib]
  obtain ⟨ho, he⟩ | ⟨ho, m, hm, he⟩ | ⟨ho, e, hm, he⟩ := endBySilence_cases _ hdefined
  · have hnot : s.afterCountdowns.rxOvf ≠ false := by simp [ho]
    exact ⟨_, _, he, hread, rfl, fun _ => rfl, fun h' => absurd h' hnot, fun h' => absurd h' hnot,
      fun h' => absurd h' hnot⟩
  · refine ⟨_, _, he, hread, rfl, fun h' => by simp [ho] at h', fun _ hshort => ?_,
      fun _ e he' => ?_, fun _ m' hm' => ?_⟩
    · have := (decodeFrame_eq_ok _ _ _ hm).1
      omega
    · cases hm.symm.trans he'
    · obtain rfl : m = m' := Except.ok.inj (hm.symm.trans hm')
      exact ⟨rfl, rfl, rfl, rfl⟩
  · refine ⟨_, _, he, hread, rfl, fun h' => by simp [ho] at h', fun _ hshort => ?_,
      fun _ e' he' => ?_, fun _ m hm' => ?_⟩
    · obtain ⟨-, rfl⟩ | ⟨hlong, -⟩ := decodeFrame_eq_error _ _ _ hm
      · rfl
      · omega
    · exact Except.error.inj (hm.symm.trans he')
    · cases hm.symm.trans hm'

/-- Settles O24: with a byte there the Empty test never holds, so the silence test alone decides (R103). -/
theorem deadlineNeverCutsAReceiveWithBytes : Obligations.DeadlineNeverCutsAReceiveWithBytes := by
  unfold Obligations.DeadlineNeverCutsAReceiveWithBytes
  intro s h hs hbyte
  obtain ⟨t, he, ht⟩ := exec_rxTick_tickedTo h.regs.framer hs
  exact ⟨t, he, ht.no_timeout_of_byte hbyte, ht.one_le_rxI_of_byte hbyte, ht.run_iff_of_byte hbyte⟩

/-- Settles O25: step 1 polls once, and no later step of the tick touches `TQ`. -/
theorem atMostOneByteATick : Obligations.AtMostOneByteATick := by
  unfold Obligations.AtMostOneByteATick
  intro s h hs
  obtain ⟨t, he, ht⟩ := exec_rxTick_tickedTo h.regs.framer hs
  exact ⟨t, he, ht.tq⟩

/-- Settles O28: the byte is polled in step 1, before the Empty test of step 4 reads the count. -/
theorem byteOnTheLastDeadlineTickWins : Obligations.ByteOnTheLastDeadlineTickWins := by
  unfold Obligations.ByteOnTheLastDeadlineTickWins
  intro s h hs hI hdl
  have hdl' : s.afterCountdowns.rxDl = 0#16 := by simp [afterCountdowns_rxDl, hdl]
  obtain ⟨t, he, ht⟩ := exec_rxTick_tickedTo h.regs.framer hs
  refine ⟨fun htq => ⟨t, he, ?_, ?_, ht.no_timeout_of_byte (.inr htq), ht.run_of_available htq⟩, fun htq => ?_⟩
  · rw [ht.rxI, countAfterPoll_of_empty_buffer hI htq]
  · rw [ht.frame.rxDl, hdl']
  · have hcount : s.countAfterPoll = 0#16 := by rw [countAfterPoll_of_nil htq, hI]
    have hib : s.afterCountdowns.rxIb ≠ 0#16 := by
      rw [afterCountdowns_rxIb_of_zero hcount]
      exact (one_le_toNat_iff _).1 (h.run_budget hs).1
    exact ⟨_, exec_rxTick_timeout hs hib hdl' hcount, rfl, rfl⟩

end Sys2Proof.Machine
end

section
/-! PROOF. Arming the framer (R92, R105), and what it and the tick leave to the transmit side (R112). -/

namespace Sys2Proof.Machine

variable {s : State}

theorem exec_rxStart_of_legal {d : Word} (hs : s.rxState = .idle) (hd : 1 ≤ d.toNat) :
    exec (.rxStart d) s = .next (armFramer d s) :=
  startReceive_of_legal d s hs hd

/-- Settles O15: `armFramer` is the register list of R92. -/
theorem rxStartArmsTheFramer : Obligations.RxStartArmsTheFramer := by
  unfold Obligations.RxStartArmsTheFramer
  exact fun s _ hs hd => ⟨_, exec_rxStart_of_legal hs hd, rfl, doneOutcome_cases s.freeCount⟩

/-- Settles O32: past its guard `RECEIVE` arms as `RX_START` does, then the host waits (R105). -/
theorem receiveArmsAndWaits : Obligations.ReceiveArmsAndWaits := by
  unfold Obligations.ReceiveArmsAndWaits
  intro s d hs hhost hd
  refine ⟨hostWaits .receive (armFramer d s), ?_, rfl⟩
  rw [exec, execReceive, whenHostFree_idle _ _ hhost, startReceive_of_legal d s hs hd, andThen_next]

/-! The transmit side. -/

/-- The state with another transmit side: `TXBUF`, `TXLEN`, `ENC_OUTCOME` and the line. -/
def State.withTransmitSide (m : Memory) (len : Word) (o : Status) (out : List Byte) (s : State) : State :=
  { s with txbuf := m, txLen := len, encOutcome := o, lineOut := out }

variable (m : Memory) (len : Word) (o : Status) (out : List Byte)

@[simp] theorem withTransmitSide_rxState : (s.withTransmitSide m len o out).rxState = s.rxState := rfl
@[simp] theorem withTransmitSide_rxOvf : (s.withTransmitSide m len o out).rxOvf = s.rxOvf := rfl

theorem afterCountdowns_withTransmitSide :
    (s.withTransmitSide m len o out).afterCountdowns = s.afterCountdowns.withTransmitSide m len o out := rfl

theorem decodeBuffer_withTransmitSide : decodeBuffer (s.withTransmitSide m len o out) = decodeBuffer s := rfl

theorem silenceHolds_withTransmitSide : silenceHolds (s.withTransmitSide m len o out) = silenceHolds s := rfl

theorem emptyHolds_withTransmitSide : emptyHolds (s.withTransmitSide m len o out) = emptyHolds s := rfl

theorem startReceive_withTransmitSide (d : Word) (s : State) :
    startReceive d (s.withTransmitSide m len o out) =
      andThen (startReceive d s) fun t => .next (t.withTransmitSide m len o out) := by
  unfold startReceive whenIdle
  rw [withTransmitSide_rxState]
  split
  · split <;> rfl
  · rfl

theorem endBySilence_withTransmitSide (s : State) :
    endBySilence (s.withTransmitSide m len o out) =
      andThen (endBySilence s) fun t => .next (t.withTransmitSide m len o out) := by
  unfold endBySilence
  rw [withTransmitSide_rxOvf, decodeBuffer_withTransmitSide]
  split
  · rfl
  · split <;> rfl

theorem tickTerminate_withTransmitSide (s : State) :
    tickTerminate (s.withTransmitSide m len o out) =
      andThen (tickTerminate s) fun t => .next (t.withTransmitSide m len o out) := by
  unfold tickTerminate
  rw [silenceHolds_withTransmitSide, emptyHolds_withTransmitSide]
  split
  · exact endBySilence_withTransmitSide m len o out s
  · split <;> rfl

theorem execRxTick_withTransmitSide (s : State) :
    execRxTick (s.withTransmitSide m len o out) =
      andThen (execRxTick s) fun t => .next (t.withTransmitSide m len o out) := by
  cases hs : s.rxState with
  | idle => rw [execRxTick_idle s hs, execRxTick_idle (s.withTransmitSide m len o out) hs, andThen_next]
  | run =>
    rw [execRxTick_run s hs, execRxTick_run (s.withTransmitSide m len o out) hs, afterCountdowns_withTransmitSide]
    exact tickTerminate_withTransmitSide m len o out _

/-- A tick takes at most the head of `TQ`, from every state. -/
theorem execRxTick_tq (s : State) : Ends True (fun t => t.tq = s.tq ∨ t.tq = s.tq.tail) (execRxTick s) := by
  cases hs : s.rxState with
  | idle => rw [execRxTick_idle s hs]; exact .inl rfl
  | run =>
    rw [execRxTick_run s hs]
    exact (tickTerminate_outcomeOnly _).mono fun t ht => .inr ht.tq

/-- Settles O31: both operations commute with replacing the transmit side, so they neither read nor write it. -/
theorem framerIgnoresTheTransmitSide : Obligations.FramerIgnoresTheTransmitSide := by
  unfold Obligations.FramerIgnoresTheTransmitSide
  rintro i s m len o out (rfl | ⟨d, rfl⟩)
  · exact ⟨execRxTick_withTransmitSide m len o out s, fun t he => (execRxTick_tq s).of_eq_next he⟩
  · refine ⟨startReceive_withTransmitSide m len o out d s, fun t he => ?_⟩
    obtain ⟨-, -, rfl⟩ := startReceive_eq_next d s t he
    exact .inl rfl

end Sys2Proof.Machine
end

section
/-! PROOF. Runs of ticks (R102, R108, R111), each by induction on the number of ticks over all running states. -/

namespace Sys2Proof.Machine

variable {s t : State}

theorem ticks_succ_of_next {n : Nat} (h : exec .rxTick s = .next t) : ticks (n + 1) s = ticks n t := by
  rw [ticks_succ, h, andThen_next]

/-- A receive with no byte and a silent line runs for as many ticks as the deadline has left, then ends in `Timeout`. -/
theorem ticks_of_empty_and_silent (k : Nat) (s : State) (hs : s.rxState = .run) (htq : s.tq = []) (hI : s.rxI = 0#16)
    (hib : s.rxIb ≠ 0#16) (hdl : 1 ≤ s.rxDl.toNat) :
    ∃ t, ticks k s = .next t ∧ (t.rxState = .run ↔ k < s.rxDl.toNat) ∧
      (s.rxDl.toNat ≤ k → t.rxOutcome = .timeout ∧ t.rxI = 0#16 ∧ t.rxDl = 0#16 ∧ t.rxIb = s.rxIb) := by
  induction k generalizing s with
  | zero => exact ⟨s, rfl, iff_of_true hs hdl, fun h => absurd hdl (Nat.not_le.2 (Nat.lt_succ_of_le h))⟩
  | succ k ih =>
    have hI' : s.afterCountdowns.rxI = 0#16 := (countAfterPoll_of_nil htq).trans hI
    have hib' : s.afterCountdowns.rxIb = s.rxIb := afterCountdowns_rxIb_of_zero hI'
    have hdl' := toNat_afterCountdowns_rxDl s
    by_cases hlast : s.afterCountdowns.rxDl = 0#16
    · have he := exec_rxTick_timeout hs (hib' ▸ hib) hlast hI'
      rw [hlast, BitVec.toNat_ofNat] at hdl'
      rw [ticks_succ_of_next he, ticks_of_idle _ _ rfl]
      exact ⟨_, rfl, iff_of_false nofun (by omega), fun _ => ⟨rfl, hI', hlast, hib'⟩⟩
    · have he := exec_rxTick_goes_on hs (hib' ▸ hib) fun hempty => hlast hempty.1
      have hleft : 1 ≤ s.afterCountdowns.rxDl.toNat := (one_le_toNat_iff _).2 hlast
      obtain ⟨t, ht, hrun, hend⟩ := ih s.afterCountdowns hs (by simp [htq]) hI' (hib' ▸ hib) hleft
      refine ⟨t, (ticks_succ_of_next he).trans ht, hrun.trans (by omega), fun hk => ?_⟩
      rw [← hib']
      exact hend (by omega)

/-- Settles O26: an armed framer has no byte, and its deadline is the operand. -/
theorem timeoutExactlyAtTheDeadline : Obligations.TimeoutExactlyAtTheDeadline := by
  unfold Obligations.TimeoutExactlyAtTheDeadline
  intro s d hs hd htq k
  rw [exec_rxStart_of_legal hs hd, andThen_next]
  exact ticks_of_empty_and_silent k (armFramer d s) rfl htq rfl ((one_le_toNat_iff _).1 s.cfg.ibWindow_pos) hd

/-- Past its last byte a receive runs for as many silent ticks as its inter-byte budget; one that has ended stands at
budget 0. -/
theorem ticks_run_iff_of_silent (d : Nat) (s : State) (h : s.FramerInv) (htq : s.tq = []) (hI : 1 ≤ s.rxI.toNat)
    (hs : s.rxState = .run ↔ 0 < s.rxIb.toNat) :
    ∃ t, ticks d s = .next t ∧ (t.rxState = .run ↔ d < s.rxIb.toNat) := by
  induction d generalizing s with
  | zero => exact ⟨s, rfl, hs⟩
  | succ d ih =>
    cases hrun : s.rxState with
    | idle =>
      have hz : ¬ 0 < s.rxIb.toNat := by simp [← hs, hrun]
      exact ⟨s, ticks_of_idle _ s hrun, iff_of_false (by simp [hrun]) (by omega)⟩
    | run =>
      obtain ⟨t, he, ht⟩ := exec_rxTick_tickedTo h hrun
      have hib : t.rxIb.toNat = s.rxIb.toNat - 1 := by
        rw [ht.frame.rxIb, toNat_afterCountdowns_rxIb_of_byte h hrun (.inl hI), budgetAfterPoll_of_nil htq]
      obtain ⟨t', hticks, hiff⟩ := ih t ht.inv (by rw [ht.tq, htq]; rfl) (ht.one_le_rxI_of_byte (.inl hI))
        (ht.run_iff_budget_of_byte (.inl hI))
      exact ⟨t', (ticks_succ_of_next he).trans hticks, hiff.trans (by omega)⟩

/-- Settles O27: the tick of the byte leaves `IB_WINDOW - 1`, and the silent ticks after it count that down. -/
theorem silenceWindowIsExact : Obligations.SilenceWindowIsExact := by
  unfold Obligations.SilenceWindowIsExact
  intro s v h hs htq
  have hne : s.tq ≠ [] := by simp [htq]
  obtain ⟨t, he, ht⟩ := exec_rxTick_tickedTo h.regs.framer hs
  have hib : t.rxIb.toNat = s.cfg.ibWindow.toNat - 1 := by
    rw [ht.frame.rxIb, toNat_afterCountdowns_rxIb_of_byte h.regs.framer hs (.inr hne), budgetAfterPoll_of_ne_nil hne]
  have hrun := ht.run_iff_budget_of_byte (.inr hne)
  refine ⟨fun d hd => ?_, fun hw hI => ⟨t, (ticks_succ_of_next he).trans rfl, ?_, ?_⟩⟩
  · obtain ⟨d, rfl⟩ := Nat.exists_eq_add_of_le' hd
    obtain ⟨t', hticks, hiff⟩ :=
      ticks_run_iff_of_silent d t ht.inv (by rw [ht.tq, htq]; rfl) (ht.one_le_rxI_of_byte (.inr hne)) hrun
    exact ⟨t', (ticks_succ_of_next he).trans hticks, hiff.trans (by omega)⟩
  · rw [rxState_idle_iff, Ne, hrun, hib, hw]
    decide
  · rw [ht.rxI, countAfterPoll_of_empty_buffer hI hne]

/-- While `TQ` holds a byte for each tick, the receive runs and takes one a tick (R97, R111). -/
theorem ticks_of_available (k : Nat) (s : State) (h : s.FramerInv) (hs : s.rxState = .run)
    (hw : 2 ≤ s.cfg.ibWindow.toNat) (hk : k ≤ s.tq.length) :
    ∃ t, ticks k s = .next t ∧ t.rxState = .run ∧ t.tq = s.tq.drop k := by
  induction k generalizing s with
  | zero => exact ⟨s, rfl, hs, rfl⟩
  | succ k ih =>
    have hne : s.tq ≠ [] := List.ne_nil_of_length_pos (by omega)
    obtain ⟨t, he, ht⟩ := exec_rxTick_tickedTo h hs
    have hlen : k ≤ t.tq.length := by rw [ht.tq, List.length_tail]; omega
    obtain ⟨t', hticks, hrun, hdrop⟩ := ih t ht.inv (ht.run_of_available hne hw) (by rwa [ht.cfg]) hlen
    refine ⟨t', (ticks_succ_of_next he).trans hticks, hrun, ?_⟩
    rw [hdrop, ht.tq, List.drop_tail]

/-- Settles O29: neither the deadline nor the room in the buffer is in the argument. -/
theorem bytesKeepAReceiveRunning : Obligations.BytesKeepAReceiveRunning := by
  unfold Obligations.BytesKeepAReceiveRunning
  exact fun s k h hs hw hk => ticks_of_available k s h.regs.framer hs hw hk

end Sys2Proof.Machine
end

section
/-! PROOF. The host's calls up to `RX_START` (R113 to R118, R122, R124, R125): the request that each call starts, and one
equation for each outcome of a request. -/

namespace Sys2Proof.Machine

variable {s : State} {call : Call} {address : Word} {command : Byte} {payload f : List Byte}

/-! The calls of a host that waits, and of one that is free. -/

theorem whenHostFree_waiting (k : State → Result) (h : s.host = .waiting call) :
    whenHostFree s k = .refused .reentrantCall := by
  rw [whenHostFree, h]

theorem exec_request_of_free (h : s.host = .idle) :
    exec (.request address command payload) s = startRequest (.request command) address command payload s :=
  whenHostFree_idle _ _ h

theorem exec_cmdD6_of_free (h : s.host = .idle) :
    exec (.cmdD6 address payload) s = startRequest (.configure payload) address 0xD6#8 payload s :=
  whenHostFree_idle _ _ h

theorem exec_localRead_of_free (h : s.host = .idle) : exec .localRead s = startIdentityQuery .localRead s :=
  whenHostFree_idle _ _ h

theorem runInput_sessionStart_of_free (h : s.host = .idle) :
    runInput .sessionStart s = startIdentityQuery (.bootstrap s.cfg.bootRetries) s :=
  whenHostFree_idle _ _ h

theorem runInput_identityStore_of_free (h : s.host = .idle) :
    runInput (.identityStore address command payload) s =
      startRequest (.identityStore command payload) address command payload s :=
  whenHostFree_idle _ _ h

/-! The outcomes of a request. -/

/-- An error raised to a host that is not blocked changes its answer alone. -/
theorem raiseToHost_of_free (e : HostError) (h : s.host = .idle) :
    raiseToHost e s = { s with answer := .raised e } := by
  rw [raiseToHost, ← h]

theorem addressInRange_iff (aw : AddrWidth) : addressInRange aw address = true ↔ address.toNat ≤ aw.addrMax :=
  decide_eq_true_iff

/-- The address is checked before the block or the transport is touched (R114). -/
theorem startRequest_of_high_address (hhost : s.host = .idle) (ha : s.cfg.aw.addrMax < address.toNat) :
    startRequest call address command payload s =
      .next { s with answer := .raised (.status .addressOutOfRange) } := by
  rw [startRequest, if_neg (by rwa [addressInRange_iff, Nat.not_le]), raiseToHost_of_free _ hhost]

theorem startRequest_of_legal_address_of_run (hs : s.rxState = .run) (ha : address.toNat ≤ s.cfg.aw.addrMax) :
    startRequest call address command payload s = .refused .requestWhileRunning := by
  rw [startRequest, if_pos ((addressInRange_iff _).2 ha), whenIdle_run _ _ hs]

/-- After `ENCODE`'s error the request is over, with `ENCODE`'s answer (R115). -/
theorem startRequest_of_long_payload (hhost : s.host = .idle) (hs : s.rxState = .idle)
    (ha : address.toNat ≤ s.cfg.aw.addrMax) (hp : s.cfg.maxPayload ≤ payload.length) :
    startRequest call address command payload s = .next (raiseError .codec .payloadTooLarge s) := by
  have henc := encodeFrame_of_long_payload command ha hp
  rw [startRequest, if_pos ((addressInRange_iff _).2 ha), whenIdle_idle _ _ hs, encodeInto, henc]
  exact congrArg Host.Outcome.next (raiseToHost_of_free _ hhost)

/-- The state in which `call` waits after its request: the frame `f` in `TXBUF` and on the line, `TQ` discarded, the framer
armed (R116 to R118). -/
def requestSent (call : Call) (f : List Byte) (s : State) : State :=
  hostWaits call (armFramer s.cfg.deadlineDefault (tDiscard (tWrite f (storeFrame f s))))

theorem startRequest_of_encoded (hs : s.rxState = .idle) (hf : encodeFrame s.cfg address command payload = .ok f) :
    startRequest call address command payload s = .next (requestSent call f s) := by
  obtain ⟨ha, hp, -⟩ := (encodeFrame_eq_ok _ _ _ _ _).1 hf
  obtain ⟨ha', -⟩ | ⟨-, hp', -⟩ | ⟨f', hf', he⟩ := startRequest_cases call address command payload s hs
  · simp [ha] at ha'
  · simp [hp] at hp'
  · obtain rfl : f = f' := Except.ok.inj (hf.symm.trans hf')
    exact he

theorem exec_request_of_encoded (hhost : s.host = .idle) (hs : s.rxState = .idle)
    (hf : encodeFrame s.cfg address command payload = .ok f) :
    exec (.request address command payload) s = .next (requestSent (.request command) f s) :=
  (exec_request_of_free hhost).trans (startRequest_of_encoded hs hf)

theorem read_requestSent_txbuf (call : Call) (f : List Byte) (s : State) (k : Nat) :
    Memory.read (requestSent call f s).txbuf k = f[k]? :=
  read_storeFrame_txbuf f s k

/-! The statements. -/

/-- Settles O37: both are requests, whose first check is the address. -/
theorem requestAddressCheckedBeforeIo : Obligations.RequestAddressCheckedBeforeIo := by
  unfold Obligations.RequestAddressCheckedBeforeIo
  intro s address command payload hhost ha
  rw [exec_request_of_free hhost, exec_cmdD6_of_free hhost]
  exact ⟨startRequest_of_high_address hhost ha, startRequest_of_high_address hhost ha⟩

/-- Settles O38: both are requests, which end with `ENCODE`'s error. -/
theorem requestEncodeErrorSendsNothing : Obligations.RequestEncodeErrorSendsNothing := by
  unfold Obligations.RequestEncodeErrorSendsNothing
  intro s address command payload hhost hs ha hp
  rw [exec_request_of_free hhost, exec_cmdD6_of_free hhost]
  exact ⟨startRequest_of_long_payload hhost hs ha hp, startRequest_of_long_payload hhost hs ha hp⟩

/-- Settles O39: either instruction is a request with the frame of legal operands. -/
theorem requestTransmitsDiscardsAndWaits : Obligations.RequestTransmitsDiscardsAndWaits := by
  unfold Obligations.RequestTransmitsDiscardsAndWaits
  intro s address command payload i call hi hhost hs ha hp
  have hf := encodeFrame_of_legal command ha hp
  have hstart : exec i s = startRequest call address command payload s := by
    obtain ⟨rfl, rfl⟩ | ⟨rfl, rfl, rfl⟩ := hi
    · exact exec_request_of_free hhost
    · exact exec_cmdD6_of_free hhost
  exact ⟨_, _, hf, hstart.trans (startRequest_of_encoded hs hf), rfl, read_requestSent_txbuf _ _ s⟩

/-- Settles O40: the three outcomes of a request, whichever the query's operands select. -/
theorem localReadIsARequest : Obligations.LocalReadIsARequest := by
  unfold Obligations.LocalReadIsARequest
  intro s hhost hs
  rw [exec_localRead_of_free hhost]
  rcases Nat.lt_or_ge s.cfg.aw.addrMax Config.identityAddress.toNat with ha | ha
  · have hnot := Nat.not_le.2 ha
    exact ⟨_, startRequest_of_high_address hhost ha, fun _ => rfl, fun h => absurd h hnot, fun h => absurd h hnot⟩
  rcases Nat.lt_or_ge Config.identityPayload.length s.cfg.maxPayload with hp | hp
  · have hf := encodeFrame_of_legal Config.identityCommand ha hp
    exact ⟨_, startRequest_of_encoded hs hf, fun h => absurd h (Nat.not_lt.2 ha),
      fun _ h => absurd h (Nat.not_le.2 hp), fun _ _ => ⟨_, hf, rfl, read_requestSent_txbuf _ _ s⟩⟩
  · exact ⟨_, startRequest_of_long_payload hhost hs ha hp, fun h => absurd h (Nat.not_lt.2 ha), fun _ _ => rfl,
      fun _ h => absurd h (Nat.not_lt.2 hp)⟩

/-- Settles O41: the stimulus starts a request in the state that its arrivals have reached, where they are discarded. -/
theorem sessionAndStoreStartRequests : Obligations.SessionAndStoreStartRequests := by
  unfold Obligations.SessionAndStoreStartRequests
  intro s arrivals rest input call address command payload hsched hinput hhost hs ha hp
  obtain ⟨f, hf⟩ : ∃ f, encodeFrame s.cfg address command payload = .ok f :=
    ⟨_, encodeFrame_of_legal command ha hp⟩
  have hstart (u : State) (hu : u.host = .idle) (hcfg : u.cfg = s.cfg) :
      runInput input u = startRequest call address command payload u := by
    obtain ⟨rfl, rfl⟩ | ⟨rfl, rfl, rfl, rfl, rfl⟩ := hinput
    · exact runInput_identityStore_of_free hu
    · rw [← hcfg]
      exact runInput_sessionStart_of_free hu
  have hsent := (hstart (takeStimulus { arrivals, input } rest s) hhost rfl).trans (startRequest_of_encoded hs hf)
  exact ⟨_, f, (step_of_schedule_cons hsched).trans hsent, hf, rfl, rfl, rfl, rfl, rfl, rfl, rfl⟩

/-- Settles O59: the host's guard comes first, then the address check, then the block's guard. -/
theorem hostCallsRefused : Obligations.HostCallsRefused := by
  unfold Obligations.HostCallsRefused
  intro s address command payload deadline
  refine ⟨fun call hcall => ?_, fun hhost hs => ?_⟩
  · have hbusy (k : State → Result) := whenHostFree_waiting k hcall
    have hreceive : execReceive deadline s = .refused .reentrantCall := hbusy _
    refine ⟨hreceive, hbusy _, hbusy _, hbusy _, fun st rest hsched hstarts => ?_⟩
    rw [step_of_schedule_cons hsched]
    cases hinput : st.input with
    | word _ _ | reset => simp [hinput, startsHostCall] at hstarts
    | sessionStart | identityStore _ _ _ => exact whenHostFree_waiting _ hcall
  · rw [exec_request_of_free hhost, exec_cmdD6_of_free hhost, exec_localRead_of_free hhost]
    refine ⟨?_, fun ha => ⟨startRequest_of_legal_address_of_run hs ha, startRequest_of_legal_address_of_run hs ha⟩,
      startRequest_of_legal_address_of_run hs, fun st rest hsched hinput => ?_⟩
    · rw [exec, execReceive, whenHostFree_idle _ _ hhost, startReceive, whenIdle_run _ _ hs, andThen_refused]
    · have hhost' : (takeStimulus st rest s).host = .idle := hhost
      rw [step_of_schedule_cons hsched]
      obtain ⟨hinput, ha⟩ | ⟨hinput, ha⟩ := hinput <;> rw [hinput]
      · rw [runInput_identityStore_of_free hhost']
        exact startRequest_of_legal_address_of_run hs ha
      · rw [runInput_sessionStart_of_free hhost']
        exact startRequest_of_legal_address_of_run hs ha

end Sys2Proof.Machine
end

section
/-! PROOF. The return of a blocked call, on a message (R119, R120, R122, R124) and on a receive that failed (R118, R125). -/

namespace Sys2Proof.Machine

variable {s : State} {call : Call}

/-! On a message. -/

section
variable {m : Message} (hcall : s.host = .waiting call) (hs : s.rxState = .idle) (ho : s.rxOutcome = .ok)
  (hm : hostReadMessage s = .ok m)
include hcall hs ho hm

theorem resume_of_no_command (hsent : sentCommand call = none) : resume s = .next (finishCall call m s) := by
  simp only [resume_waiting s call hcall hs, completeCall, ho, if_true, hm, hsent]

theorem resume_of_same_command (hsent : sentCommand call = some m.command) :
    resume s = .next (finishCall call m s) := by
  simp only [resume_waiting s call hcall hs, completeCall, ho, if_true, hm, hsent]

theorem resume_of_other_command {c : Byte} (hsent : sentCommand call = some c) (hne : m.command ≠ c) :
    resume s = .next (raiseToHost .unexpectedResponse s) := by
  simp only [resume_waiting s call hcall hs, completeCall, ho, if_true, hm, hsent, if_neg hne]

end

theorem finishCall_configure_of_echo (m : Message) (s : State) :
    finishCall (.configure m.payload) m s =
      returnOk m (updateIdentity (Config.identityAfterConfigure · m.payload m.payload) s) :=
  if_pos rfl

theorem finishCall_configure_of_mismatch {m : Message} {p : List Byte} (s : State) (h : m.payload ≠ p) :
    finishCall (.configure p) m s = raiseToHost .echoMismatch s :=
  if_neg h

/-- An update of the cache leaves it empty where it was (R152). -/
theorem updateIdentity_eq_none_iff (f : Identity → Identity) (s : State) :
    (updateIdentity f s).identity = none ↔ s.identity = none :=
  Option.map_eq_none_iff

/-- Settles O42: the command is compared for every call but `RECEIVE`, then `finishCall` has an equation per call. -/
theorem callReturnsTheResponse : Obligations.CallReturnsTheResponse := by
  unfold Obligations.CallReturnsTheResponse
  intro s call m hcall hs ho hm
  have hsame := resume_of_same_command hcall hs ho hm
  refine ⟨?receive, fun _ => resume_of_other_command hcall hs ho hm, ?request, ?read, ?update, ?mismatch⟩
  case receive =>
    rintro rfl
    exact resume_of_no_command hcall hs ho hm rfl
  case request =>
    rintro _ rfl rfl
    exact hsame rfl
  case read =>
    rintro (rfl | ⟨left, rfl⟩) hc <;> exact ⟨_, hsame (congrArg some hc.symm), rfl, _, rfl, rfl, rfl⟩
  case update =>
    rintro (⟨p, rfl, hc, rfl⟩ | ⟨c, p, rfl, rfl⟩)
    · refine ⟨_, hsame (congrArg some hc.symm), ?_⟩
      rw [finishCall_configure_of_echo]
      exact ⟨rfl, updateIdentity_eq_none_iff _ s⟩
    · exact ⟨_, hsame rfl, rfl, updateIdentity_eq_none_iff _ s⟩
  case mismatch =>
    rintro p rfl hc hp
    rw [hsame (congrArg some hc.symm), finishCall_configure_of_mismatch s hp]
    rfl

/-! On a receive that failed. -/

theorem resume_of_failed (hcall : s.host = .waiting call) (hs : s.rxState = .idle) (ho : s.rxOutcome ≠ .ok) :
    resume s = failCall call s := by
  rw [resume_waiting s call hcall hs, completeCall, if_neg ho]

theorem retriedError_iff (e : Status) : retriedError e = true ↔ e = .timeout ∨ e = .checksumMismatch := by
  simp [retriedError]

theorem failCall_of_not_bootstrap (h : ∀ left, call ≠ .bootstrap left) :
    failCall call s = .next (raiseToHost (.status s.rxOutcome) s) := by
  obtain he | ⟨left, -, hleft, -⟩ := failCall_cases call s
  · exact he
  · exact absurd hleft (h left)

/-- The bootstrap gives up on its last failure (D36). -/
theorem failCall_bootstrap_of_no_retry_left {left : Option Nat} (h : retryLeft left = none) :
    failCall (.bootstrap left) s = .next (raiseToHost (.status s.rxOutcome) s) := by
  simp only [failCall, h]
  split
  · contradiction
  · rfl

theorem failCall_bootstrap_of_not_retried {left : Option Nat} (h : retriedError s.rxOutcome = false) :
    failCall (.bootstrap left) s = .next (raiseToHost (.status s.rxOutcome) s) := by
  simp only [failCall, h]

theorem failCall_bootstrap_of_retried {left left' : Option Nat} (h : retriedError s.rxOutcome = true)
    (hleft : retryLeft left = some left') :
    failCall (.bootstrap left) s = startIdentityQuery (.bootstrap left') { s with host := .idle } := by
  simp only [failCall, h, hleft]

/-- Settles O43: only the bootstrap looks at which error it was, and at the retries left. -/
theorem callRaisesTheOutcome : Obligations.CallRaisesTheOutcome := by
  unfold Obligations.CallRaisesTheOutcome
  intro s call hcall hs ho
  rw [resume_of_failed hcall hs ho]
  refine ⟨failCall_of_not_bootstrap, ?_, ?_, ?_, ?_⟩
  · rintro rfl
    exact failCall_bootstrap_of_no_retry_left rfl
  · rintro left rfl htimeout hmismatch
    refine failCall_bootstrap_of_not_retried (Bool.eq_false_iff.2 fun h => ?_)
    exact ((retriedError_iff _).1 h).elim htimeout hmismatch
  · rintro rfl h
    exact failCall_bootstrap_of_retried ((retriedError_iff _).2 h) rfl
  · rintro n rfl h
    exact failCall_bootstrap_of_retried ((retriedError_iff _).2 h) rfl

end Sys2Proof.Machine
end

section
/-! PROOF. A frame that stands in `TQ` is received one byte a tick, and silence ends the receive in `OK` (R96, R101, R104,
R164). The argument is about one tick: what has been received and what still stands in `TQ` make up the frame, and the ticks
left go down by one. -/

namespace Sys2Proof.Machine

variable {s : State} {f : List Byte} {m : Message}

/-- How many ticks a receive with a byte still lasts if no further byte arrives: one for each byte in `TQ`, then the inter-byte
budget, which the tick of the last byte has already counted down once. -/
def State.ticksLeft (s : State) : Nat :=
  s.tq.length + if s.tq = [] then s.rxIb.toNat else s.cfg.ibWindow.toNat - 1

theorem ticksLeft_of_nil (h : s.tq = []) : s.ticksLeft = s.rxIb.toNat := by
  simp [State.ticksLeft, h]

theorem ticksLeft_of_ne_nil (h : s.tq ≠ []) : s.ticksLeft = s.tq.length + (s.cfg.ibWindow.toNat - 1) := by
  simp [State.ticksLeft, h]

/-- The receive of the frame `f` runs: its bytes have been stored, or stand in `TQ`. -/
structure Receiving (f : List Byte) (s : State) : Prop where
  inv : s.FramerInv
  run : s.rxState = .run
  bytes : s.rxbuf.map Prod.snd ++ s.tq = f
  nonempty : f ≠ []
  room : f.length ≤ s.cfg.rxCap
  no_overrun : s.rxOvf = false
  window : 2 ≤ s.cfg.ibWindow.toNat

namespace Receiving

theorem length_eq (h : Receiving f s) : f.length = s.rxI.toNat + s.tq.length := by
  have hstored : s.rxbuf.length = s.rxI.toNat := by simpa using congrArg List.length h.inv.rxbuf_prefix
  rw [← h.bytes, List.length_append, List.length_map, hstored]

theorem byte (h : Receiving f s) : 1 ≤ s.rxI.toNat ∨ s.tq ≠ [] := by
  have hlen := h.length_eq
  have hpos := List.length_pos_iff.2 h.nonempty
  rw [← List.length_pos_iff]
  omega

/-- While `TQ` holds a byte of the frame there is room for it. -/
theorem rxI_lt (h : Receiving f s) (htq : s.tq ≠ []) : s.rxI.toNat < s.cfg.rxCap := by
  have hlen := h.length_eq
  have hpos := List.length_pos_iff.2 htq
  have hroom := h.room
  omega

theorem bytes_afterCountdowns (h : Receiving f s) :
    s.afterCountdowns.rxbuf.map Prod.snd ++ s.afterCountdowns.tq = f := by
  rw [afterCountdowns_rxbuf, afterCountdowns_tq, State.bufferAfterPoll, ← h.bytes]
  cases htq : s.tq with
  | nil => rfl
  | cons v rest =>
    have hroom := h.rxI_lt (by simp [htq])
    simp [hroom, Memory.map_snd_write_end _ _ _ h.inv.rxbuf_prefix]

theorem no_overrun_afterCountdowns (h : Receiving f s) : s.afterCountdowns.rxOvf = false := by
  have hroom (htq : s.tq ≠ []) : s.rxI.toNat < s.cfg.rxCap := h.rxI_lt htq
  simpa [afterCountdowns_rxOvf, h.no_overrun] using hroom

theorem ticksLeft_afterCountdowns (h : Receiving f s) : s.afterCountdowns.ticksLeft = s.ticksLeft - 1 := by
  have hib := toNat_afterCountdowns_rxIb_of_byte h.inv h.run h.byte
  cases htq : s.tq with
  | nil =>
    rw [ticksLeft_of_nil htq, ticksLeft_of_nil (by simp [htq]), hib, budgetAfterPoll_of_nil htq]
  | cons v rest =>
    rw [budgetAfterPoll_of_ne_nil (by simp [htq])] at hib
    rw [ticksLeft_of_ne_nil (s := s) (by simp [htq]), State.ticksLeft, afterCountdowns_tq, hib, afterCountdowns_cfg, htq,
      List.tail_cons, List.length_cons, ite_self]
    omega

/-- The last tick is a silent one, and the silence test holds at its end alone. -/
theorem silence_iff (h : Receiving f s) : s.afterCountdowns.rxIb = 0#16 ↔ s.ticksLeft = 1 := by
  have hib := toNat_afterCountdowns_rxIb_of_byte h.inv h.run h.byte
  rw [← toNat_eq_zero_iff, hib]
  by_cases htq : s.tq = []
  · have hpos := (h.inv.run_budget h.run).1
    rw [ticksLeft_of_nil htq, budgetAfterPoll_of_nil htq]
    omega
  · have hpos := List.length_pos_iff.2 htq
    have hw := h.window
    rw [ticksLeft_of_ne_nil htq, budgetAfterPoll_of_ne_nil htq]
    omega

theorem tq_eq_nil_of_last (h : Receiving f s) (hleft : s.ticksLeft = 1) : s.tq = [] := by
  by_contra htq
  have hpos := List.length_pos_iff.2 htq
  have hw := h.window
  rw [ticksLeft_of_ne_nil htq] at hleft
  omega

/-- Before its last tick the receive goes on. -/
theorem tick_goes_on (h : Receiving f s) (hleft : s.ticksLeft ≠ 1) :
    exec .rxTick s = .next s.afterCountdowns ∧ Receiving f s.afterCountdowns := by
  have hib : s.afterCountdowns.rxIb ≠ 0#16 := mt h.silence_iff.1 hleft
  have hempty (hall : s.afterCountdowns.rxDl = 0#16 ∧ s.afterCountdowns.rxI = 0#16) :=
    countAfterPoll_ne_zero s h.byte hall.2
  exact ⟨exec_rxTick_goes_on h.run hib hempty,
    { inv := afterCountdowns_framerInv h.inv h.run hib hempty
      run := h.run
      bytes := h.bytes_afterCountdowns
      nonempty := h.nonempty
      room := h.room
      no_overrun := h.no_overrun_afterCountdowns
      window := h.window }⟩

end Receiving

/-- `u` is left by the tick that ended the receive of `m` begun from `s`, before a blocked call returns. -/
structure Received (m : Message) (s u : State) : Prop where
  rxState : u.rxState = .idle
  rxOutcome : u.rxOutcome = .ok
  message : hostReadMessage u = .ok m
  host : u.host = s.host
  lineOut : u.lineOut = s.lineOut

/-- The last tick decodes the frame (R104). -/
theorem Receiving.tick_ends (h : Receiving f s) (hleft : s.ticksLeft = 1) (hm : decodeFrame s.cfg.aw f = .ok m) :
    ∃ u, exec .rxTick s = .next u ∧ u.schedule = s.schedule ∧ Received m s u := by
  have hbytes : s.afterCountdowns.rxbuf.map Prod.snd = f := by
    simpa [h.tq_eq_nil_of_last hleft] using h.bytes_afterCountdowns
  have hbuffer := afterCountdowns_bufferInv h.inv.toBufferInv
  have hm' : decodeFrame s.afterCountdowns.cfg.aw (s.afterCountdowns.rxbuf.map Prod.snd) = .ok m := hbytes ▸ hm
  have hended := bindMessage_framerInv hbuffer hm'
  obtain ⟨m', hdecoded, -, -, -, -, hread⟩ := hostReadMessage_of_ok _ hended.rxbuf_prefix rfl (hended.ok_decoded rfl)
  obtain rfl : m = m' := Except.ok.inj (hm'.symm.trans hdecoded)
  have hend : endBySilence s.afterCountdowns =
      .next { bindMessage m s.afterCountdowns with rxOutcome := .ok, rxState := .idle } := by
    rw [endBySilence, if_neg (by simp [h.no_overrun_afterCountdowns]), decodeBuffer_of_prefix _ hbuffer.rxbuf_prefix, hm']
  have he := (exec_rxTick_silence h.run (h.silence_iff.2 hleft)).trans hend
  exact ⟨_, he, rfl, rfl, rfl, hread, rfl, rfl⟩

end Sys2Proof.Machine
end

section
/-! PROOF. A request from its stimulus to its return (R113, R119, R120, R164): the frame is sent, then the schedule's ticks run
the receive of the response, and the call returns in the step of the last one. -/

namespace Sys2Proof

/-- `REQUEST`'s operands read back from their lanes. -/
theorem decode_encode_request (address : Word) (command : Byte) (payload : List Byte) :
    decode (encode (.request address command payload)).1 (encode (.request address command payload)).2 =
      .ok (.request address command payload) := by
  have hword := readWord_encodeWord address (command :: encodeSeq payload)
  have hseq := readSeq_encodeSeq payload []
  rw [List.append_nil] at hseq
  simp [encode, decode, decodeHostPseudo, decodeRequest, hword, hseq, bind, Except.bind]

end Sys2Proof

namespace Sys2Proof.Machine

variable {s u : State} {f : List Byte} {m : Message}

/-! The steps of a schedule. -/

/-- A tick strobe before which these bytes arrive. -/
def tickStimulus (arrivals : List Byte) : Stimulus := { arrivals := arrivals, input := .word .event [] }

theorem step_of_tick {arrivals : List Byte} {rest : List Stimulus} (h : s.schedule = tickStimulus arrivals :: rest) :
    step s = andThen (exec .rxTick (takeStimulus (tickStimulus arrivals) rest s)) resume :=
  (step_of_schedule_cons h).trans (runInput_word_of_decode _ rfl)

theorem step_of_present {i : Instr} {rest : List Stimulus} (h : s.schedule = present i :: rest)
    (hi : decode (encode i).1 (encode i).2 = .ok i) :
    step s = andThen (exec i (takeStimulus (present i) rest s)) resume :=
  (step_of_schedule_cons h).trans (runInput_word_of_decode _ hi)

theorem andThen_steps_zero (r : Result) : andThen r (steps 0) = r := by
  cases r <;> rfl

/-! The receive of the response. -/

theorem Receiving.takeStimulus_silent (h : Receiving f s) (rest : List Stimulus) :
    Receiving f (takeStimulus (tickStimulus []) rest s) :=
  { h with
    inv := h.inv.congr rfl
    bytes := (congrArg _ (List.append_nil s.tq)).trans h.bytes }

theorem ticksLeft_takeStimulus_silent (rest : List Stimulus) (s : State) :
    (takeStimulus (tickStimulus []) rest s).ticksLeft = s.ticksLeft := by
  simp [State.ticksLeft, tickStimulus]

/-- With a tick about to run and just enough ticks on the schedule for the rest of the receive, the run ends in the return of
the blocked call, on the frame's message. -/
theorem Receiving.runs_until_resume (n : Nat) (s : State) (h : Receiving f s) (hleft : s.ticksLeft = n + 1)
    (hsched : s.schedule = silentTicks n) (hm : decodeFrame s.cfg.aw f = .ok m) :
    ∃ u, andThen (andThen (exec .rxTick s) resume) (steps n) = resume u ∧ u.schedule = [] ∧ Received m s u := by
  induction n generalizing s with
  | zero =>
    obtain ⟨u, he, hu, hreceived⟩ := h.tick_ends hleft hm
    rw [he, andThen_next, andThen_steps_zero]
    exact ⟨u, rfl, hu.trans hsched, hreceived⟩
  | succ n ih =>
    obtain ⟨he, hgoes⟩ := h.tick_goes_on (by omega)
    have hleft' : s.afterCountdowns.ticksLeft = n + 1 := by
      rw [h.ticksLeft_afterCountdowns, hleft, Nat.add_sub_cancel]
    have hstep : step s.afterCountdowns = _ := step_of_tick hsched
    rw [he, andThen_next, resume_of_run _ hgoes.run, andThen_next, steps_succ, hstep]
    obtain ⟨u, hrun, hu, hreceived⟩ := ih _ (hgoes.takeStimulus_silent (silentTicks n))
      ((ticksLeft_takeStimulus_silent _ _).trans hleft') rfl hm
    exact ⟨u, hrun, hu, { hreceived with }⟩

/-- A frame that arrives with the first tick after a request is received from that tick on. -/
theorem receiving_of_requestSent (call : Call) (sent : List Byte) (rest : List Stimulus) (hf : f ≠ [])
    (hroom : f.length ≤ s.cfg.rxCap) (hw : 2 ≤ s.cfg.ibWindow.toNat) :
    Receiving f (takeStimulus (tickStimulus f) rest (requestSent call sent s)) where
  inv := (armFramer_framerInv (tDiscard (tWrite sent (storeFrame sent s))) s.cfg.deadlineDefault_pos).congr rfl
  run := rfl
  bytes := rfl
  nonempty := hf
  room := hroom
  no_overrun := rfl
  window := hw

theorem ticksLeft_of_requestSent (call : Call) (sent : List Byte) (rest : List Stimulus) (hf : f ≠ []) :
    (takeStimulus (tickStimulus f) rest (requestSent call sent s)).ticksLeft =
      f.length + (s.cfg.ibWindow.toNat - 1) :=
  ticksLeft_of_ne_nil hf

/-- From the step that issued a request: a frame that arrives with the first tick, then silence for exactly as long as its
receive lasts, bring the call to its return (R164). -/
theorem steps_of_requestSent {n : Nat} (call : Call) (sent : List Byte) (hf : f ≠ []) (hroom : f.length ≤ s.cfg.rxCap)
    (hw : 2 ≤ s.cfg.ibWindow.toNat) (hn : n + 1 = f.length + (s.cfg.ibWindow.toNat - 1))
    (hsched : s.schedule = tickStimulus f :: silentTicks n) (hm : decodeFrame s.cfg.aw f = .ok m) :
    ∃ u, steps (n + 1) (requestSent call sent s) = resume u ∧ u.schedule = [] ∧
      Received m (requestSent call sent s) u := by
  have hstep : step (requestSent call sent s) = _ := step_of_tick hsched
  have hleft := ticksLeft_of_requestSent (s := s) call sent (silentTicks n) hf
  rw [steps_succ, hstep]
  obtain ⟨u, hrun, hu, hreceived⟩ := Receiving.runs_until_resume n _
    (receiving_of_requestSent call sent (silentTicks n) hf hroom hw) (hleft.trans hn.symm) rfl hm
  exact ⟨u, hrun, hu, { hreceived with }⟩

/-- `REQUEST` returns the message of a receive that ended in `OK`, or raises `UnexpectedResponse` (R119, R120). -/
theorem Received.resume_request (h : Received m s u) {command : Byte} (hcall : s.host = .waiting (.request command)) :
    resume u = .next (if m.command = command then returnOk m u else raiseToHost .unexpectedResponse u) := by
  have hcall' := h.host.trans hcall
  split
  · next hc => exact resume_of_same_command hcall' h.rxState h.rxOutcome h.message (congrArg some hc.symm)
  · next hc => exact resume_of_other_command hcall' h.rxState h.rxOutcome h.message rfl hc

/-- The step of a scheduled `REQUEST` with legal operands. -/
theorem step_of_presented_request {address : Word} {command : Byte} {payload sent : List Byte} {rest : List Stimulus}
    (hsched : s.schedule = present (.request address command payload) :: rest) (hhost : s.host = .idle)
    (hs : s.rxState = .idle) (hsent : encodeFrame s.cfg address command payload = .ok sent) :
    step s = .next (requestSent (.request command) sent
      (takeStimulus (present (.request address command payload)) rest s)) := by
  have hexec := exec_request_of_encoded (s := takeStimulus (present (.request address command payload)) rest s)
    hhost hs hsent
  rw [step_of_present hsched (decode_encode_request address command payload), hexec, andThen_next]
  exact resume_of_run _ rfl

/-- Settles O44: the request's step, then the run of its response's frame up to the return. -/
theorem requestReturnsTheResponsePayload : Obligations.RequestReturnsTheResponsePayload := by
  unfold Obligations.RequestReturnsTheResponsePayload
  intro s address raw command answered payload response n hhost hs ha hp hw hroom hn hsched
  obtain ⟨sent, hsent⟩ : ∃ sent, encodeFrame s.cfg address command payload = .ok sent :=
    ⟨_, encodeFrame_of_legal command ha hp⟩
  have hlen := length_wireFrame raw answered response
  have hissue := step_of_presented_request hsched hhost hs hsent
  obtain ⟨u, hrun, hu, hreceived⟩ := steps_of_requestSent (n := n)
    (s := takeStimulus (present (.request address command payload)) _ s) (.request command) sent
    (List.ne_nil_of_length_eq_add_one hlen) (hlen ▸ hroom) hw (by rw [hlen, takeStimulus_cfg]; omega) rfl
    (decodeFrame_wireFrame s.cfg.aw raw answered response)
  have hsteps : steps (n + 2) s = resume u := by
    rw [steps_succ, hissue, andThen_next]
    exact hrun
  have hreturn := hsteps.trans (hreceived.resume_request rfl)
  by_cases hc : answered = command
  · rw [if_pos hc] at hreturn
    exact ⟨_, sent, hreturn, hsent, hreceived.lineOut, rfl, hreceived.rxState, hreceived.rxOutcome, hu,
      (if_pos hc).symm⟩
  · rw [if_neg hc] at hreturn
    exact ⟨_, sent, hreturn, hsent, hreceived.lineOut, rfl, hreceived.rxState, hreceived.rxOutcome, hu,
      (if_neg hc).symm⟩

end Sys2Proof.Machine
end

section
/-! PROOF. The receive that ends with no byte (R102, R132, R134). -/

namespace Sys2Proof.Machine

/-- An error of the framer ends the receive with that outcome and leaves `DEC_*` open, and nothing else changes (R134). -/
theorem raiseFramer_frame (e : Status) (u : State) :
    raiseError .framer e u =
      { u with rxState := .idle, rxOutcome := e, decAddr := (raiseError .framer e u).decAddr,
               decCmd := (raiseError .framer e u).decCmd, decPlen := (raiseError .framer e u).decPlen,
               freeCount := (raiseError .framer e u).freeCount } := rfl

/-- Settles O23: of step 4's tests the Empty test alone holds, which raises `Timeout` in the counted registers. -/
theorem emptyDeadlineIsTimeout : Obligations.EmptyDeadlineIsTimeout := by
  unfold Obligations.EmptyDeadlineIsTimeout
  intro s hs hib hdl hI
  exact ⟨_, exec_rxTick_timeout hs hib hdl hI, raiseFramer_frame .timeout s.afterCountdowns⟩

end Sys2Proof.Machine
end

section
/-! PROOF. A whole frame in `TQ` when `RX_START` is issued (R104, R164): the receive lasts exactly as long as its ticks left,
and then the buffer holds the frame. -/

namespace Sys2Proof.Machine

variable {s u : State} {f : List Byte} {m : Message}

/-- The whole of `f` stands in `RXBUF[0..RX_I)`, and none of it in `TQ`. -/
structure Stored (f : List Byte) (u : State) : Prop where
  tq : u.tq = []
  bytes : Memory.readRange u.rxbuf 0 u.rxI.toNat = .ok f

theorem Stored.length_eq (h : Stored f u) : f.length = u.rxI.toNat :=
  ((Memory.readRange_eq_ok _ _ _ _).1 h.bytes).1

theorem OutcomeOnly.rxbuf (h : OutcomeOnly s u) : u.rxbuf = s.rxbuf := (congrArg State.rxbuf h :)

theorem Receiving.ticksLeft_pos (h : Receiving f s) : 0 < s.ticksLeft := by
  by_cases htq : s.tq = []
  · rw [ticksLeft_of_nil htq]
    exact (h.inv.run_budget h.run).1
  · rw [ticksLeft_of_ne_nil htq]
    exact Nat.add_pos_left (List.length_pos_iff.2 htq) _

/-- Past the last tick every byte of the frame has been stored. -/
theorem Receiving.stored_of_last (h : Receiving f s) (hleft : s.ticksLeft = 1) (he : exec .rxTick s = .next u) :
    Stored f u := by
  obtain ⟨t, ht, hticked⟩ := exec_rxTick_tickedTo h.inv h.run
  obtain rfl : t = u := Host.Outcome.next.inj (ht.symm.trans he)
  have htq := h.tq_eq_nil_of_last hleft
  refine ⟨by rw [hticked.tq, htq, List.tail_nil], ?_⟩
  rw [Memory.readRange_of_prefix _ _ hticked.inv.rxbuf_prefix, hticked.frame.rxbuf]
  simpa [htq] using h.bytes_afterCountdowns

/-- A receive of a whole frame runs for exactly its ticks left, and then the message and the buffer stay. -/
theorem Receiving.ticks_until_received (k : Nat) (s : State) (h : Receiving f s)
    (hm : decodeFrame s.cfg.aw f = .ok m) :
    ∃ u, ticks k s = .next u ∧ (u.rxState = .run ↔ k < s.ticksLeft) ∧
      (s.ticksLeft ≤ k → Received m s u ∧ Stored f u) := by
  induction k generalizing s with
  | zero =>
    have hpos := h.ticksLeft_pos
    exact ⟨s, rfl, iff_of_true h.run hpos, fun hk => absurd hpos (Nat.not_lt.2 hk)⟩
  | succ k ih =>
    by_cases hleft : s.ticksLeft = 1
    · obtain ⟨u, he, -, hreceived⟩ := h.tick_ends hleft hm
      rw [ticks_succ_of_next he, ticks_of_idle _ _ hreceived.rxState]
      exact ⟨u, rfl, iff_of_false (rxState_idle_iff.1 hreceived.rxState) (by omega),
        fun _ => ⟨hreceived, h.stored_of_last hleft he⟩⟩
    · obtain ⟨he, hgoes⟩ := h.tick_goes_on hleft
      have hpos := h.ticksLeft_pos
      obtain ⟨u, hticks, hrun, hend⟩ := ih s.afterCountdowns hgoes hm
      rw [h.ticksLeft_afterCountdowns] at hrun hend
      refine ⟨u, (ticks_succ_of_next he).trans hticks, hrun.trans (by omega), fun hk => ?_⟩
      obtain ⟨hreceived, hstored⟩ := hend (by omega)
      exact ⟨{ hreceived with }, hstored⟩

/-- An armed framer receives the frame that stands in `TQ` (R92 leaves `TQ`). -/
theorem receiving_of_armFramer {d : Word} (hd : 1 ≤ d.toNat) (htq : s.tq = f) (hf : f ≠ [])
    (hroom : f.length ≤ s.cfg.rxCap) (hw : 2 ≤ s.cfg.ibWindow.toNat) : Receiving f (armFramer d s) where
  inv := armFramer_framerInv s hd
  run := rfl
  bytes := htq
  nonempty := hf
  room := hroom
  no_overrun := rfl
  window := hw

/-- Settles O30: the armed framer's ticks left are one for each byte of the frame, and then the window less the tick of the
last byte. -/
theorem wholeFrameIsReceived : Obligations.WholeFrameIsReceived := by
  unfold Obligations.WholeFrameIsReceived
  intro s d raw command payload hs hd hw htq hroom k
  have hlen := length_wireFrame raw command payload
  have hne : wireFrame raw command payload ≠ [] := List.ne_nil_of_length_eq_add_one hlen
  have hreceiving := receiving_of_armFramer hd htq hne (hlen ▸ hroom) hw
  have hleft : (armFramer d s).ticksLeft = payload.length + 5 + s.cfg.ibWindow.toNat - 1 := by
    rw [ticksLeft_of_ne_nil (by rwa [armFramer_tq, htq]), armFramer_tq, armFramer_cfg, htq, hlen]
    omega
  obtain ⟨u, hticks, hrun, hend⟩ := hreceiving.ticks_until_received k _
    (decodeFrame_wireFrame s.cfg.aw raw command payload)
  rw [hleft] at hrun hend
  rw [exec_rxStart_of_legal hs hd, andThen_next]
  refine ⟨u, hticks, hrun, fun hk => ?_⟩
  obtain ⟨hreceived, hstored⟩ := hend hk
  exact ⟨hreceived.rxOutcome, hstored.length_eq.symm.trans hlen, hstored.tq, hstored.bytes, hreceived.message⟩

end Sys2Proof.Machine
end

section
/-! PROOF. The identity cache holds nothing until an identity read has returned (R122 to R125, R152): no operation but the
return of a blocked call writes the cache, and of the calls only `LOCALREAD` and the bootstrap fill an empty one. -/

namespace Sys2Proof.Machine

variable {s t : State}

/-- From `s` to `t` the cache is left alone, and no call is newly blocked on a receive that has already ended. -/
structure KeepsIdentity (s t : State) : Prop where
  identity : t.identity = s.identity
  host : t.host = s.host ∨ t.host = .idle ∨ t.rxState = .run

/-- The call of the phase `h` was an identity read, and in `t` it has returned after a receive that ended in `OK`. -/
structure IdentityRead (h : HostPhase) (t : State) : Prop where
  call : h = .waiting .localRead ∨ ∃ left, h = .waiting (.bootstrap left)
  host : t.host = .idle
  rxState : t.rxState = .idle
  rxOutcome : t.rxOutcome = .ok

/-! The operations. -/

@[simp] theorem encodeInto_identity (address : Word) (command : Byte) (payload : List Byte) (s : State) :
    (encodeInto address command payload s).identity = s.identity := by
  obtain ⟨f, -, he⟩ | ⟨e, -, he⟩ := encodeInto_cases address command payload s <;> rw [he] <;> rfl

theorem OutcomeOnly.identity (h : OutcomeOnly s t) : t.identity = s.identity := (congrArg State.identity h :)
theorem OutcomeOnly.host (h : OutcomeOnly s t) : t.host = s.host := (congrArg State.host h :)

theorem execRxTick_keepsIdentity (s : State) : Ends True (KeepsIdentity s) (execRxTick s) := by
  cases hs : s.rxState with
  | idle => rw [execRxTick_idle s hs]; exact ⟨rfl, .inl rfl⟩
  | run =>
    rw [execRxTick_run s hs]
    exact (tickTerminate_outcomeOnly _).mono fun t ht => ⟨ht.identity, .inl ht.host⟩

theorem execDecode_keepsIdentity (s : State) : Ends True (KeepsIdentity s) (execDecode s) := by
  unfold execDecode
  split
  · trivial
  · exact ⟨rfl, .inl rfl⟩
  · exact ⟨rfl, .inl rfl⟩

theorem execCrc16_keepsIdentity (bytes : List Byte) (s : State) : Ends True (KeepsIdentity s) (execCrc16 bytes s) :=
  .whenIdle fun _ => ⟨rfl, .inl rfl⟩

theorem execTRead_keepsIdentity (s : State) : Ends True (KeepsIdentity s) (execTRead s) := by
  unfold execTRead tRead
  cases s.tq with
  | nil => trivial
  | cons b rest => exact ⟨rfl, .inl rfl⟩

/-- A request that waits has armed the framer. -/
theorem startRequest_keepsIdentity (call : Call) (address : Word) (command : Byte) (payload : List Byte) (s : State) :
    Ends True (KeepsIdentity s) (startRequest call address command payload s) := by
  cases hs : s.rxState with
  | run =>
    obtain he | he := startRequest_of_run call address command payload hs <;> rw [he]
    · trivial
    · exact ⟨rfl, .inr (.inl rfl)⟩
  | idle =>
    obtain ⟨-, he⟩ | ⟨-, -, he⟩ | ⟨f, -, he⟩ := startRequest_cases call address command payload s hs <;> rw [he]
    · exact ⟨rfl, .inr (.inl rfl)⟩
    · exact ⟨rfl, .inr (.inl rfl)⟩
    · exact ⟨rfl, .inr (.inr rfl)⟩

theorem exec_keepsIdentity (i : Instr) (s : State) : Ends True (KeepsIdentity s) (exec i s) := by
  cases i with
  | crc16 bytes => exact execCrc16_keepsIdentity bytes s
  | encode address command payload =>
    exact .execEncode fun _ => ⟨encodeInto_identity _ _ _ s, .inl (encodeInto_host _ _ _ s)⟩
  | rxStart _ => exact .startReceive fun _ _ => ⟨rfl, .inl rfl⟩
  | rxTick => exact execRxTick_keepsIdentity s
  | decode => exact execDecode_keepsIdentity s
  | receive _ => exact .execReceive fun _ _ => ⟨rfl, .inr (.inr rfl)⟩
  | tRead => exact execTRead_keepsIdentity s
  | noRequest | tAvail | tWrite _ | tDiscard | frame _ _ _ | frameMin _ _ => exact ⟨rfl, .inl rfl⟩
  | request _ _ _ | localRead | cmdD6 _ _ => exact .whenHostFree fun _ => startRequest_keepsIdentity _ _ _ _ s

/-! The return of a blocked call. -/

/-- An operation that changes the identity updates a cache that holds one, and only a read fills an empty cache. -/
theorem finishCall_identity (call : Call) (m : Message) (hid : s.identity = none) :
    (finishCall call m s).identity = none ∨ call = .localRead ∨ ∃ left, call = .bootstrap left := by
  cases call with
  | localRead => exact .inr (.inl rfl)
  | bootstrap left => exact .inr (.inr ⟨left, rfl⟩)
  | receive | request _ => exact .inl hid
  | identityStore _ _ => exact .inl ((updateIdentity_eq_none_iff _ s).2 hid)
  | configure p =>
    by_cases hp : m.payload = p
    · subst hp
      rw [finishCall_configure_of_echo]
      exact .inl ((updateIdentity_eq_none_iff _ s).2 hid)
    · rw [finishCall_configure_of_mismatch s hp]
      exact .inl hid

theorem failCall_identity (call : Call) (s : State) : Ends True (fun t => t.identity = s.identity) (failCall call s) := by
  obtain he | ⟨-, left', -, he⟩ := failCall_cases call s <;> rw [he]
  · rfl
  · exact (startRequest_keepsIdentity _ _ _ _ _).mono fun t ht => ht.identity

theorem completeCall_identity (call : Call) (hs : s.rxState = .idle) (hid : s.identity = none) :
    Ends True (fun t => t.identity = none ∨ IdentityRead (.waiting call) t) (completeCall call s) := by
  unfold completeCall
  split
  case isFalse => exact (failCall_identity call s).mono fun t ht => .inl (ht.trans hid)
  case isTrue ho =>
    have hfinish (m : Message) : (finishCall call m s).identity = none ∨
        IdentityRead (.waiting call) (finishCall call m s) := by
      obtain ⟨hframer, -, hhost⟩ := finishCall_leaves call m s
      refine (finishCall_identity call m hid).imp_right fun hcall => ⟨?_, hhost, ?_, ?_⟩
      · simpa using hcall
      · exact (rxState_of_framerPart hframer).trans hs
      · exact (congrArg State.rxOutcome hframer :).trans ho
    split
    · trivial
    · split
      · exact hfinish _
      · split
        · exact hfinish _
        · exact .inl hid

theorem resume_identity (hid : s.identity = none) :
    Ends True (fun t => t.identity = none ∨ IdentityRead s.host t) (resume s) := by
  cases hhost : s.host with
  | idle => rw [resume_of_host_idle s hhost]; exact .inl hid
  | waiting call =>
    cases hs : s.rxState with
    | run => rw [resume_of_run s hs]; exact .inl hid
    | idle => rw [resume_waiting s call hhost hs]; exact completeCall_identity call hs hid

/-- Only a call that was blocked before the instruction can return after it. -/
theorem runInstr_identity (i : Instr) (hid : s.identity = none) :
    Ends True (fun t => t.identity = none ∨ IdentityRead s.host t) (andThen (exec i s) resume) := by
  refine (exec_keepsIdentity i s).andThen fun u hu => ?_
  have hid' := hu.identity.trans hid
  obtain hhost | hhost | hs := hu.host
  · exact hhost ▸ resume_identity hid'
  · rw [resume_of_host_idle u hhost]; exact .inl hid'
  · rw [resume_of_run u hs]; exact .inl hid'

theorem step_identity (hid : s.identity = none) :
    Ends True (fun t => t.identity = none ∨ IdentityRead s.host t) (step s) := by
  obtain ⟨-, he⟩ | ⟨st, rest, -, hst⟩ := step_cases s
  · rw [he]; exact .inl hid
  · have hstart (call : Call) (address : Word) (command : Byte) (payload : List Byte) :
        Ends True (fun t => t.identity = none ∨ IdentityRead s.host t)
          (startRequest call address command payload (takeStimulus st rest s)) :=
      (startRequest_keepsIdentity call address command payload _).mono fun t ht => .inl (ht.identity.trans hid)
    obtain ⟨_, _, i, -, -, he⟩ | ⟨_, _, e, -, -, he⟩ | ⟨-, he⟩ | ⟨-, he⟩ | ⟨a, c, p, -, he⟩ := hst <;> rw [he]
    · exact runInstr_identity (s := takeStimulus st rest s) i hid
    · trivial
    · exact .inl hid
    · exact .whenHostFree fun _ => hstart _ _ _ _
    · exact .whenHostFree fun _ => hstart _ _ _ _

/-- Settles O60: the postcondition of `step_identity`, whose second case is the return of an identity read. -/
theorem identityEmptyUntilARead : Obligations.IdentityEmptyUntilARead := by
  unfold Obligations.IdentityEmptyUntilARead
  intro s t ht hid hfilled
  obtain hnone | hread := (step_identity hid).of_eq_next ht
  · exact absurd hnone hfilled
  · exact ⟨hread.call, hread.host, hread.rxState, hread.rxOutcome⟩

end Sys2Proof.Machine
end

section
/-! PROOF. A request refused while a receive runs, the machine with nothing presented, and the reset input (R29, R147 to R150,
R158). -/

namespace Sys2Proof.Machine

/-- Settles O16: the three stand behind the guard `whenIdle`, which looks at no operand. -/
theorem requestsRefusedWhileRunning : Obligations.RequestsRefusedWhileRunning := by
  unfold Obligations.RequestsRefusedWhileRunning
  intro s bytes address command deadline hs
  refine ⟨?_, ?_, ?_⟩
  · rw [exec, execCrc16, whenIdle_run s _ hs]
  · rw [exec, execEncode, whenIdle_run s _ hs]
  · rw [exec, execRxStart, startReceive, whenIdle_run s _ hs]

theorem step_of_schedule_nil {s : State} (h : s.schedule = []) : step s = .next s := by
  simp only [step, h]

/-- Settles O53: `step` looks at the schedule first. -/
theorem idleMachineWaits : Obligations.IdleMachineWaits := by
  unfold Obligations.IdleMachineWaits
  exact fun s hs => step_of_schedule_nil hs

/-- Settles O54: the bytes arrive, and then `applyReset` is the register list of R29. -/
theorem resetInputResetsTheBlock : Obligations.ResetInputResetsTheBlock := by
  unfold Obligations.ResetInputResetsTheBlock
  exact fun s arrivals rest hs => ⟨_, step_of_schedule_cons hs, rfl⟩

end Sys2Proof.Machine
end

section
/-! PROOF. A word on the schedule that is no instruction (log 6), beside `stepRunsTheDecodedInstruction`. -/

namespace Sys2Proof.Machine

theorem runInput_word_of_decode_error {f : Format} {bytes : List Byte} {e : DecodeError} (s : State)
    (h : decode f bytes = .error e) : runInput (.word f bytes) s = .refused (.undecodable e) := by
  simp only [runInput, runWord, h]

/-- Settles O52: the step takes the stimulus and passes on the reason its word has no instruction. -/
theorem stepRefusesUndecodableWords : Obligations.StepRefusesUndecodableWords := by
  unfold Obligations.StepRefusesUndecodableWords
  intro s f bytes arrivals rest e hs hd
  rw [step_of_schedule_cons hs, runInput_word_of_decode_error _ hd]

end Sys2Proof.Machine
end

section
/-! PROOF. The decoder undoes the encoder (R49, R55, R58, R59, R63, log 6): the operand readers on the last operand of a word,
one lemma per row with operands, and the rows put together. -/

namespace Sys2Proof

/-! The readers where nothing follows the operand. -/

@[simp] theorem readSeq_encodeSeq_self (s : List Byte) : readSeq (encodeSeq s) = .ok (s, []) := by
  have h := readSeq_encodeSeq s []
  rwa [List.append_nil] at h

@[simp] theorem readWord_encodeWord_self (v : Word) : readWord (encodeWord v) = .ok (v, []) := by
  have h := readWord_encodeWord v []
  rwa [List.append_nil] at h

/-- The length lane of `ENCODE` has 16 bits, so it holds the length of a payload of at most 65535 bytes (R59). -/
theorem readBytes_lengthLane {payload : List Byte} (h : payload.length ≤ 65535) :
    readBytes (BitVec.ofNat 16 payload.length).toNat payload = .ok (payload, []) := by
  have hlane : (BitVec.ofNat 16 payload.length).toNat = payload.length := by
    rw [BitVec.toNat_ofNat]
    omega
  have hread := readBytes_append payload []
  rwa [List.append_nil, ← hlane] at hread

/-! The operand decoder of each row on the lanes that `encode` writes for it. -/

theorem decodeCrc16_encodeSeq (s : List Byte) : decodeCrc16 (encodeSeq s) = .ok (.crc16 s) := by
  rw [decodeCrc16, readSeq_encodeSeq_self]
  rfl

theorem decodeEncode_lanes (address : Word) (command : Byte) {payload : List Byte} (h : payload.length ≤ 65535) :
    decodeEncode (encodeWord address ++ [command] ++ encodeWord (BitVec.ofNat 16 payload.length) ++ payload) =
      .ok (.encode address command payload) := by
  simp only [decodeEncode, List.append_assoc, List.cons_append, List.nil_append, readWord_encodeWord,
    readByte_cons, readBytes_lengthLane h, bind, Except.bind, finishDecode_nil]

theorem decodeRxStart_encodeWord (deadline : Word) : decodeRxStart (encodeWord deadline) = .ok (.rxStart deadline) := by
  rw [decodeRxStart, readWord_encodeWord_self]
  rfl

theorem decodeReceive_encodeWord (deadline : Word) : decodeReceive (encodeWord deadline) = .ok (.receive deadline) := by
  rw [decodeReceive, readWord_encodeWord_self]
  rfl

theorem decodeTWrite_encodeSeq (s : List Byte) : decodeTWrite (encodeSeq s) = .ok (.tWrite s) := by
  rw [decodeTWrite, readSeq_encodeSeq_self]
  rfl

theorem decodeCmdD6_lanes (address : Word) (payload : List Byte) :
    decodeCmdD6 (encodeWord address ++ encodeSeq payload) = .ok (.cmdD6 address payload) := by
  simp [decodeCmdD6, bind, Except.bind]

/-- The decoder reads back the word of a well-formed instruction: the selector leads to the row's operand decoder, and a row
without operands evaluates. -/
theorem decode_encode (i : Instr) (h : i.wf = true) : decode (encode i).1 (encode i).2 = .ok i := by
  cases i with
  | noRequest | rxTick | decode | tAvail | tRead | tDiscard | localRead => rfl
  | crc16 s => exact decodeCrc16_encodeSeq s
  | encode address command payload => exact decodeEncode_lanes address command (of_decide_eq_true h)
  | rxStart deadline => exact decodeRxStart_encodeWord deadline
  | receive deadline => exact decodeReceive_encodeWord deadline
  | tWrite s => exact decodeTWrite_encodeSeq s
  | request address command payload => exact decode_encode_request address command payload
  | frame raw command payload =>
    cases payload with
    | nil => cases h
    | cons b payload => exact decode_wireFrame_cons raw command b payload
  | frameMin raw command => exact decode_wireFrame_nil raw command
  | cmdD6 address payload => exact decodeCmdD6_lanes address payload

end Sys2Proof

namespace Sys2Proof.Machine

/-- Settles O45: `decode_encode`, by the rows of the instruction set. -/
theorem decodeUndoesEncode : Obligations.DecodeUndoesEncode := by
  unfold Obligations.DecodeUndoesEncode
  exact decode_encode

end Sys2Proof.Machine
end
